-- ==== Sys2Proof/Word.lean ====
section
/-! DEFINITION. The word and byte types of the core (spec 00_scope.md R5). -/

namespace Sys2Proof

/-- A 16-bit value: every register, memory cell, address and program-counter value (R5). `+` on it is
the spec's `+16` (R9). -/
abbrev Word := BitVec 16

/-- An 8-bit value: an input or output byte, or a trap vector (R5, R35). -/
abbrev Byte := BitVec 8

end Sys2Proof
end

