-- ==== Sys2Proof/Syntax.lean ====
section
/-! DEFINITION. The instructions: one constructor per row of spec/opcode_table.json (30_encoding.md R63, R70). -/

namespace Sys2Proof

/-- The eight general registers (10_state.md R21). -/
inductive Reg where
  | r0 | r1 | r2 | r3 | r4 | r5 | r6 | r7
  deriving DecidableEq, Repr

/-- The six built-in trap services (45_trap.md R130). -/
inductive Service where
  | getc | out | puts | input | putsp | halt
  deriving DecidableEq, Repr

/-- A decoded instruction with its extracted fields (R63). Bits the decoder ignores (R67) are not part of it. -/
inductive Instr where
  /-- BR: condition bits n, z, p and PCoffset9 (R100) -/
  | br (n z p : Bool) (off9 : BitVec 9)
  /-- ADD, register form (R90) -/
  | addReg (dr sr1 sr2 : Reg)
  /-- ADD, immediate form (R91) -/
  | addImm (dr sr1 : Reg) (imm5 : BitVec 5)
  /-- LD (R110) -/
  | ld (dr : Reg) (off9 : BitVec 9)
  /-- ST (R120) -/
  | st (sr : Reg) (off9 : BitVec 9)
  /-- JSRR (R103) -/
  | jsrr (baseR : Reg)
  /-- JSR (R102) -/
  | jsr (off11 : BitVec 11)
  /-- AND, register form (R92) -/
  | andReg (dr sr1 sr2 : Reg)
  /-- AND, immediate form (R93) -/
  | andImm (dr sr1 : Reg) (imm5 : BitVec 5)
  /-- LDR (R112) -/
  | ldr (dr baseR : Reg) (off6 : BitVec 6)
  /-- STR (R122) -/
  | str (sr baseR : Reg) (off6 : BitVec 6)
  /-- reserved class 0b1000 (R83) -/
  | rsv8
  /-- NOT (R94) -/
  | not (dr sr : Reg)
  /-- LDI (R111) -/
  | ldi (dr : Reg) (off9 : BitVec 9)
  /-- STI (R121) -/
  | sti (sr : Reg) (off9 : BitVec 9)
  /-- JMP; RET is JMP R7 (R101) -/
  | jmp (baseR : Reg)
  /-- reserved class 0b1101 (R84) -/
  | rsvD
  /-- LEA (R113) -/
  | lea (dr : Reg) (off9 : BitVec 9)
  /-- TRAP with vector 0x20 (R131) -/
  | trapGetc
  /-- TRAP with vector 0x21 (R132) -/
  | trapOut
  /-- TRAP with vector 0x22 (R133) -/
  | trapPuts
  /-- TRAP with vector 0x23 (R134) -/
  | trapIn
  /-- TRAP with vector 0x24 (R135) -/
  | trapPutsp
  /-- TRAP with vector 0x25 (R136) -/
  | trapHalt
  /-- the TRAP row: any other vector, when well-formed (R130, R137) -/
  | trap (vector : Byte)
  deriving DecidableEq, Repr

end Sys2Proof
end

