-- ==== Sys2Proof/Machine/Vectors.lean ====
section
/-! DEFINITION. The trap vector decoder (45_trap.md R130; 92_eei_decisions.md D4). -/

namespace Sys2Proof

/-- The vector of a service (45_trap.md R130). -/
def Service.vector : Service → Byte
  | .getc => 0x20#8
  | .out => 0x21#8
  | .puts => 0x22#8
  | .input => 0x23#8
  | .putsp => 0x24#8
  | .halt => 0x25#8

/-- The service a vector selects, if it is one of the six (45_trap.md R130). -/
def Service.ofVector (v : Byte) : Option Service :=
  if v = 0x20#8 then some .getc
  else if v = 0x21#8 then some .out
  else if v = 0x22#8 then some .puts
  else if v = 0x23#8 then some .input
  else if v = 0x24#8 then some .putsp
  else if v = 0x25#8 then some .halt
  else none

end Sys2Proof
end

