-- ==== Sys2Proof/Decode.lean ====
section
/-! DEFINITION. Decoding and encoding of instruction words (30_encoding.md R60 to R70). Every 16-bit word
decodes (R69), so there is no word to reject. -/

namespace Sys2Proof

/-! Field extraction (R63). -/

/-- The register that a 3-bit field names (R21, R63). -/
def Reg.ofBits (b : BitVec 3) : Reg :=
  match b.toFin with
  | 0 => .r0
  | 1 => .r1
  | 2 => .r2
  | 3 => .r3
  | 4 => .r4
  | 5 => .r5
  | 6 => .r6
  | 7 => .r7

/-- The 3-bit field of a register. -/
def Reg.bits : Reg → BitVec 3
  | .r0 => 0#3
  | .r1 => 1#3
  | .r2 => 2#3
  | .r3 => 3#3
  | .r4 => 4#3
  | .r5 => 5#3
  | .r6 => 6#3
  | .r7 => 7#3

/-- Bits 11:9 as a register: DR, or SR of a store (R63). -/
def field11_9 (w : Word) : Reg := Reg.ofBits (w.extractLsb' 9 3)

/-- Bits 8:6 as a register: SR1, SR of NOT, BaseR (R63). -/
def field8_6 (w : Word) : Reg := Reg.ofBits (w.extractLsb' 6 3)

/-- Bits 2:0 as a register: SR2 (R63). -/
def field2_0 (w : Word) : Reg := Reg.ofBits (w.extractLsb' 0 3)

/-- Bits 4:0 (R66). -/
def imm5 (w : Word) : BitVec 5 := w.extractLsb' 0 5

/-- Bits 5:0 (R66). -/
def offset6 (w : Word) : BitVec 6 := w.extractLsb' 0 6

/-- Bits 8:0 (R66). -/
def pcOffset9 (w : Word) : BitVec 9 := w.extractLsb' 0 9

/-- Bits 10:0 (R66). -/
def pcOffset11 (w : Word) : BitVec 11 := w.extractLsb' 0 11

/-- Bits 7:0, an 8-bit number that is never widened (R66). -/
def trapVect8 (w : Word) : Byte := w.extractLsb' 0 8

/-- The instruction of a TRAP word with vector v: its service's row, or the general row (R63, section 6). -/
def decodeTrap (v : Byte) : Instr :=
  match Service.ofVector v with
  | some .getc => .trapGetc
  | some .out => .trapOut
  | some .puts => .trapPuts
  | some .input => .trapIn
  | some .putsp => .trapPutsp
  | some .halt => .trapHalt
  | none => .trap v

/-- The decoder: one arm per opcode class (bits 15, 14, 13, 12), no failing arm (R61 to R70). -/
def decode (w : Word) : Instr :=
  match w.getLsbD 15, w.getLsbD 14, w.getLsbD 13, w.getLsbD 12 with
  | false, false, false, false => .br (w.getLsbD 11) (w.getLsbD 10) (w.getLsbD 9) (pcOffset9 w)
  | false, false, false, true =>
    if w.getLsbD 5 then .addImm (field11_9 w) (field8_6 w) (imm5 w)
    else .addReg (field11_9 w) (field8_6 w) (field2_0 w)
  | false, false, true, false => .ld (field11_9 w) (pcOffset9 w)
  | false, false, true, true => .st (field11_9 w) (pcOffset9 w)
  | false, true, false, false => if w.getLsbD 11 then .jsr (pcOffset11 w) else .jsrr (field8_6 w)
  | false, true, false, true =>
    if w.getLsbD 5 then .andImm (field11_9 w) (field8_6 w) (imm5 w)
    else .andReg (field11_9 w) (field8_6 w) (field2_0 w)
  | false, true, true, false => .ldr (field11_9 w) (field8_6 w) (offset6 w)
  | false, true, true, true => .str (field11_9 w) (field8_6 w) (offset6 w)
  | true, false, false, false => .rsv8
  | true, false, false, true => .not (field11_9 w) (field8_6 w)
  | true, false, true, false => .ldi (field11_9 w) (pcOffset9 w)
  | true, false, true, true => .sti (field11_9 w) (pcOffset9 w)
  | true, true, false, false => .jmp (field8_6 w)
  | true, true, false, true => .rsvD
  | true, true, true, false => .lea (field11_9 w) (pcOffset9 w)
  | true, true, true, true => decodeTrap (trapVect8 w)

/-! The encoder, from the same table (R63). Ignored bits (R67) are written 0, but for NOT's bits 5:0, which
are written 1 as the assembler syntax of R71 does. -/

/-- A word of fields 15:12, 11:9, 8:0 (formats BR and PCR). -/
def word439 (op : BitVec 4) (a : BitVec 3) (x : BitVec 9) : Word := op ++ a ++ x

/-- A word of fields 15:12, 11:9, 8:6, 5:0 (formats OPR, OPI, NOT, JMP, JSRR, BOF). -/
def word4336 (op : BitVec 4) (a b : BitVec 3) (x : BitVec 6) : Word := op ++ a ++ b ++ x

/-- A word of fields 15:12, 11, 10:0 (format JSR). -/
def word4111 (op : BitVec 4) (m : BitVec 1) (x : BitVec 11) : Word := op ++ m ++ x

/-- A word of fields 15:12, 11:8, 7:0 (formats TRAP and RSV). -/
def word448 (op x : BitVec 4) (v : Byte) : Word := op ++ x ++ v

/-- A TRAP word with bits 11:8 zero. -/
def encodeTrap (v : Byte) : Word := word448 0xF#4 0#4 v

/-- The word of an instruction. -/
def encode : Instr → Word
  | .br n z p off9 => word439 0x0#4 (BitVec.ofBool n ++ BitVec.ofBool z ++ BitVec.ofBool p) off9
  | .addReg dr sr1 sr2 => word4336 0x1#4 dr.bits sr1.bits (0#3 ++ sr2.bits)
  | .addImm dr sr1 imm => word4336 0x1#4 dr.bits sr1.bits (1#1 ++ imm)
  | .ld dr off9 => word439 0x2#4 dr.bits off9
  | .st sr off9 => word439 0x3#4 sr.bits off9
  | .jsrr baseR => word4336 0x4#4 0#3 baseR.bits 0#6
  | .jsr off11 => word4111 0x4#4 1#1 off11
  | .andReg dr sr1 sr2 => word4336 0x5#4 dr.bits sr1.bits (0#3 ++ sr2.bits)
  | .andImm dr sr1 imm => word4336 0x5#4 dr.bits sr1.bits (1#1 ++ imm)
  | .ldr dr baseR off6 => word4336 0x6#4 dr.bits baseR.bits off6
  | .str sr baseR off6 => word4336 0x7#4 sr.bits baseR.bits off6
  | .rsv8 => word448 0x8#4 0#4 0#8
  | .not dr sr => word4336 0x9#4 dr.bits sr.bits 0x3F#6
  | .ldi dr off9 => word439 0xA#4 dr.bits off9
  | .sti sr off9 => word439 0xB#4 sr.bits off9
  | .jmp baseR => word4336 0xC#4 0#3 baseR.bits 0#6
  | .rsvD => word448 0xD#4 0#4 0#8
  | .lea dr off9 => word439 0xE#4 dr.bits off9
  | .trapGetc => encodeTrap Service.getc.vector
  | .trapOut => encodeTrap Service.out.vector
  | .trapPuts => encodeTrap Service.puts.vector
  | .trapIn => encodeTrap Service.input.vector
  | .trapPutsp => encodeTrap Service.putsp.vector
  | .trapHalt => encodeTrap Service.halt.vector
  | .trap v => encodeTrap v

/-- The word whose low nbits bits are those of w and whose other bits are 0. -/
def tableWord (nbits w : Nat) : Word := BitVec.ofNat 16 (w % 2 ^ nbits)

/-- The instruction the decoder reads from an opcode-table word: every instruction is one 16-bit word (R60),
so a longer pattern is none. -/
def decodeTableWord (nbits w : Nat) : Option Instr :=
  if nbits ≤ 16 then some (decode (tableWord nbits w)) else none

end Sys2Proof
end

