-- ==== Sys2Proof/Config.lean ====
section
/-! DEFINITION. What one implementation fixes (spec 00_scope.md R6) and the free values. -/

namespace Sys2Proof

/-- The parameters the source leaves open (R6). A machine carries one value of this type through its whole
life; the defaults are `Machine.defaultParams`. Log entry 3. -/
structure Params where
  /-- `PC_START`, the reset value of PC -/
  pcStart : Word
  /-- `KBSR_ADDR`, the keyboard-status cell -/
  kbsrAddr : Word
  /-- `KBDR_ADDR`, the keyboard-data cell -/
  kbdrAddr : Word
  /-- `KBSR_READY`, what a ready poll writes to the keyboard-status cell -/
  kbsrReady : Word
  /-- whether TRAP writes R7 -/
  trapLinksR7 : Bool
  /-- whether GETC and IN update COND -/
  trapInputSetsFlags : Bool
  /-- what HALT writes to the output sink -/
  haltNotice : List Byte
  /-- what IN writes before it reads -/
  inPrompt : List Byte
  /-- what an unknown trap vector writes -/
  unknownTrapDiagnostic : List Byte
  deriving DecidableEq, Repr

/-- The four bytes "HALT" that every halt notice begins with (45_trap.md R136; 92_eei_decisions.md D16). -/
def haltWord : List Byte := [0x48#8, 0x41#8, 0x4C#8, 0x54#8]

/-- The launch premises on the parameters: the device addresses differ (20_memory.md R44, D21), the ready
value has bit 15 set (R44), the halt notice begins with "HALT" (R136). -/
def Params.wf (p : Params) : Bool :=
  p.kbsrAddr != p.kbdrAddr && p.kbsrReady.msb && haltWord.isPrefixOf p.haltNotice

namespace Config

/-- FREE VALUE: the answer to the n-th poll of a run, for a poll that the state lists no draw for
(20_memory.md R45). Log entry 5. -/
opaque freePoll : Nat → Bool

/-- FREE VALUE: the tail of the default halt notice, which the source does not give (D16). Log entry 7. -/
opaque haltNoticeTail : List Byte

/-- FREE VALUE: the default prompt of IN, which the source does not give (D16). Log entry 7. -/
opaque inPromptText : List Byte

/-- FREE VALUE: the default unknown-vector diagnostic, which the source does not give (D16). Log entry 7. -/
opaque diagnosticText : List Byte

end Config
end Sys2Proof
end

