-- ==== Sys2Proof/Machine/Params.lean ====
section
/-! DEFINITION. The default value of every parameter (00_scope.md R6). -/

namespace Sys2Proof.Machine

/-- The defaults of R6 (92_eei_decisions.md D5, D6, D7, D9, D10, D16). The texts that R6 calls unspecified
are free values. Log entries 3 and 7. -/
def defaultParams : Params where
  pcStart := 0x3000#16
  kbsrAddr := 0xFE00#16
  kbdrAddr := 0xFE02#16
  kbsrReady := 0x8000#16
  trapLinksR7 := false
  trapInputSetsFlags := false
  haltNotice := haltWord ++ Config.haltNoticeTail
  inPrompt := Config.inPromptText
  unknownTrapDiagnostic := Config.diagnosticText

end Sys2Proof.Machine
end

