-- ==== Sys2Proof/Machine/State.lean ====
section
/-! DEFINITION. The state of the machine, the reasons a step can stop, and reset (10_state.md). -/

namespace Sys2Proof.Machine

/-- The cells of memory that do not hold 0x0000, each with its address, addresses strictly rising
(20_memory.md R40; a cell that is not listed reads 0x0000, 10_state.md R36). The hardware's smallest
addressable unit is the 16-bit cell (R40, R49), so a cell is a word. Log entry 1. -/
abbrev Memory := List (Nat × Word)

/-- The general registers R0 to R7 (R21). -/
structure Regs where
  r0 : Word
  r1 : Word
  r2 : Word
  r3 : Word
  r4 : Word
  r5 : Word
  r6 : Word
  r7 : Word
  deriving DecidableEq, Repr

/-- What a fatal fault records (60_exceptions.md R150). -/
inductive FatalCause where
  /-- a TRAP whose vector is not one of the six (45_trap.md R137) -/
  | unknownTrapVector (vector : Byte)
  /-- a PUTS or PUTSP scan that passes 0xFFFF; records R0 at the TRAP (R133, R135) -/
  | stringWrap (start : Word)
  deriving DecidableEq, Repr

/-- The run state (R31). All but `running` are terminal. -/
inductive RunState where
  | running
  | halted
  | fatal (cause : FatalCause)
  | aborted
  deriving DecidableEq, Repr

/-- What the host does before a cycle (40_dispatcher.md R87; 60_exceptions.md R154, R166). Log entry 6. -/
inductive HostMove where
  /-- nothing -/
  | idle
  /-- the input source gets one more byte to deliver (R87) -/
  | supply (b : Byte)
  /-- the termination request (R154) -/
  | terminate
  deriving DecidableEq, Repr

/-- The state: the core's own (R20), the host's streams beside it (R35), the parameters (R6) and the draws. -/
structure State where
  /-- the 65536 cells (R33) -/
  mem : Memory
  /-- the program counter (R24) -/
  pc : Word
  /-- the condition-flag mask: bit 2 NEG, bit 1 ZERO, bit 0 POS (R26) -/
  cond : BitVec 3
  /-- R0 to R7 (R21) -/
  regs : Regs
  /-- the instruction register `currentOpcode` (R30) -/
  ir : Word
  /-- the run state (R31) -/
  run : RunState
  /-- the bytes the input source will deliver, in order (R35) -/
  input : List Byte
  /-- the bytes written to the output sink so far, oldest first (R35) -/
  out : List Byte
  /-- the draws of the coming polls, in order (20_memory.md R45). Log entry 5. -/
  polls : List Bool
  /-- the model's own: how many polls have been made; indexes `Config.freePoll`. Log entry 5. -/
  pollCount : Nat
  /-- what the host does before the coming cycles, in order; nothing once the list ends. Log entry 6. -/
  hostMoves : List HostMove
  /-- the parameters of this machine (00_scope.md R6); no step changes them. Log entry 3. -/
  params : Params
  deriving DecidableEq, Repr

/-- Why the machine makes no step. -/
inductive Fault where
  /-- Raised by GETC and IN when the input source has no byte to deliver: there is no step (40_dispatcher.md
  R87 (c)). `step` never answers it: it answers the hold. Safe. Log entry 8. -/
  | inputHold
  /-- Raised by `step` in a terminal run state, where no step of the core is enabled (10_state.md R31). Safe. -/
  | notRunning
  deriving DecidableEq, Repr

/-- Why an instruction has no meaning. -/
inductive Refusal where
  /-- Raised by `exec` for an instruction the model gives no meaning yet: none. Safe. -/
  | notModelled (mnemonic : String)
  deriving DecidableEq, Repr

/-- All registers zero (R36). -/
def Regs.zero : Regs := ⟨0#16, 0#16, 0#16, 0#16, 0#16, 0#16, 0#16, 0#16⟩

/-- The state after reset, before the loader places an image (10_state.md R36; 70_reset_and_hazards.md R170),
for the launch arguments: the parameters, the input, the draws and the host's moves. -/
def State.launch (p : Params) (input : List Byte) (polls : List Bool) (hostMoves : List HostMove) : State where
  mem := []
  pc := p.pcStart
  cond := 0b000#3
  regs := Regs.zero
  ir := 0x0000#16
  run := .running
  input := input
  out := []
  polls := polls
  pollCount := 0
  hostMoves := hostMoves
  params := p

/-- The machine right after reset: the default parameters, and launch arguments that the spec leaves to the
host taken empty. Log entries 4, 5, 6. -/
def State.reset : State := State.launch defaultParams [] [] []

end Sys2Proof.Machine
end

