-- ==== Sys2Proof/Machine/Ops.lean ====
section
/-! DEFINITION. The named operations over memory, registers, the host's streams and the run state. -/

namespace Sys2Proof.Machine

/-! Memory as an array of cells (20_memory.md R40). -/

/-- The cell at a listed or unlisted address; an unlisted one reads 0x0000 (10_state.md R36). -/
def Memory.lookup : Memory → Nat → Word
  | [], _ => 0x0000#16
  | (k, v) :: m, a => if k = a then v else Memory.lookup m a

/-- The cell list with the cell at an address set, in canonical form again. -/
def Memory.insert : Memory → Nat → Word → Memory
  | [], a, v => if v = 0x0000#16 then [] else [(a, v)]
  | (k, u) :: m, a, v =>
    if a < k then (if v = 0x0000#16 then (k, u) :: m else (a, v) :: (k, u) :: m)
    else if a = k then (if v = 0x0000#16 then m else (a, v) :: m)
    else (k, u) :: Memory.insert m a v

/-- `M[a]`: the stored value of cell a, no side effect (00_scope.md, section 4). Every address is valid (R41). -/
def Memory.read (m : Memory) (a : Word) : Word := Memory.lookup m a.toNat

/-- `M[a] <- v`. -/
def Memory.write (m : Memory) (a : Word) (v : Word) : Memory := Memory.insert m a.toNat v

/-- The canonical form: addresses strictly rising and below 65536, no listed cell holding 0x0000. -/
def Memory.wf : Memory → Bool
  | [] => true
  | (k, v) :: m => decide (k < 65536) && (v != 0x0000#16 && (m.all (fun c => decide (k < c.1)) && Memory.wf m))

/-! The register file (10_state.md R21). No register is hardwired. -/

/-- `R[i]`. -/
def Regs.read (f : Regs) : Reg → Word
  | .r0 => f.r0
  | .r1 => f.r1
  | .r2 => f.r2
  | .r3 => f.r3
  | .r4 => f.r4
  | .r5 => f.r5
  | .r6 => f.r6
  | .r7 => f.r7

/-- `R[i] <- v`. -/
def Regs.write (f : Regs) (i : Reg) (v : Word) : Regs :=
  match i with
  | .r0 => { f with r0 := v }
  | .r1 => { f with r1 := v }
  | .r2 => { f with r2 := v }
  | .r3 => { f with r3 := v }
  | .r4 => { f with r4 := v }
  | .r5 => { f with r5 := v }
  | .r6 => { f with r6 := v }
  | .r7 => { f with r7 := v }

/-- `R[i]` in a state. -/
def State.reg (s : State) (i : Reg) : Word := s.regs.read i

/-- `R[i] <- v` in a state. -/
def State.setReg (s : State) (i : Reg) (v : Word) : State := { s with regs := s.regs.write i v }

/-- `PC <- t`. -/
def State.setPc (s : State) (t : Word) : State := { s with pc := t }

/-! The host's streams (10_state.md R35; 60_exceptions.md R166). -/

/-- `Out(b)` for each byte in order: appended to the output sink (R166). -/
def State.emit (s : State) (bs : List Byte) : State := { s with out := s.out ++ bs }

/-- Zero extension of an input byte (00_scope.md R8). -/
def zext (b : Byte) : Word := b.setWidth 16

/-- The draw of the next poll: the listed one, or the free value (20_memory.md R45). Log entry 5. -/
def State.draw (s : State) : Bool :=
  match s.polls with
  | d :: _ => d
  | [] => Config.freePoll s.pollCount

/-- A poll uses up one draw. -/
def State.drawn (s : State) : State := { s with polls := s.polls.tail, pollCount := s.pollCount + 1 }

/-! The Memory Unit (20_memory.md R42, R43, R44). -/

/-- `MemWrite(a, v)` (R42). -/
def State.memWrite (s : State) (a v : Word) : State := { s with mem := s.mem.write a v }

/-- The byte that a poll finds ready: only if the input stream has one, and only if the draw says that it has
arrived (R45). -/
def State.polledByte (s : State) : Option Byte :=
  match s.input with
  | [] => none
  | b :: _ => if s.draw then some b else none

/-- The poll of a keyboard-status read and its update of the device cells (R44). -/
def State.pollKeyboard (s : State) : State :=
  match s.polledByte with
  | some b =>
    ({ s.drawn with input := s.input.tail }.memWrite s.params.kbsrAddr s.params.kbsrReady).memWrite
      s.params.kbdrAddr (zext b)
  | none => s.drawn.memWrite s.params.kbsrAddr 0x0000#16

/-- The state after the side effect of `MemRead(a)`: a poll at the keyboard-status cell, nothing elsewhere
(R43, R44). -/
def State.afterRead (s : State) (a : Word) : State :=
  if a = s.params.kbsrAddr then s.pollKeyboard else s

/-- `MemRead(a)`: the side effect first, then the cell as it is now (R44). -/
def State.memRead (s : State) (a : Word) : Word × State := ((s.afterRead a).mem.read a, s.afterRead a)

/-! The end of a run (10_state.md R31). -/

/-- `raise F(info)`: the core enters `Fatal(F, info)` (60_exceptions.md R150). It saves nothing, changes no
mode and goes nowhere: there is no exception entry beyond this, and no return (R151, R156, R157). -/
def State.raiseFatal (s : State) (c : FatalCause) : State := { s with run := .fatal c }

/-- `halt` (45_trap.md R136). -/
def State.halt (s : State) : State := { s with run := .halted }

/-! Moves of the host between cycles. -/

/-- The core takes the termination request: nothing but the run state changes (60_exceptions.md R154). -/
def State.abort (s : State) : State := { s with run := .aborted }

/-- The input source gets one more byte to deliver (40_dispatcher.md R87). -/
def State.supply (s : State) (b : Byte) : State := { s with input := s.input ++ [b] }

/-- The image loader's writes, before the first cycle: word i to cell origin +16 i (70_reset_and_hazards.md
R171). -/
def State.loadImage (s : State) (origin : Word) : List Word → State
  | [] => s
  | w :: ws => (s.memWrite origin w).loadImage (origin + 1#16) ws

/-! Fetch (40_dispatcher.md R80). -/

/-- `IR <- MemRead(PC)`, then `PC <- PC +16 1`: the fetched word and the state every handler sees (R80, R81). -/
def State.fetch (s : State) : Word × State :=
  ((s.memRead s.pc).1, { (s.memRead s.pc).2 with ir := (s.memRead s.pc).1, pc := s.pc + 1#16 })

/-- A word placed where the next fetch reads. -/
def State.placeWord (s : State) (w : Word) : State := s.memWrite s.pc w

end Sys2Proof.Machine
end

