-- ==== Sys2Proof/Machine/Flags.lean ====
section
/-! DEFINITION. The Condition-Flag Updater and BR's test (10_state.md R26, R27; 42_control.md R100). -/

namespace Sys2Proof.Machine

/-- NEG is bit 2 (R26). -/
def flagNeg : BitVec 3 := 0b100#3

/-- ZERO is bit 1 (R26). -/
def flagZero : BitVec 3 := 0b010#3

/-- POS is bit 0 (R26). -/
def flagPos : BitVec 3 := 0b001#3

/-- The flag mask of a value (R27). -/
def flagsOf (v : Word) : BitVec 3 :=
  if v = 0x0000#16 then flagZero else if v.getLsbD 15 then flagNeg else flagPos

/-- SetCC(i): COND from R[i], read after it was written (R27). -/
def State.setCC (s : State) (i : Reg) : State := { s with cond := flagsOf (s.reg i) }

/-- The condition field IR[11:9] of BR as a mask (R63, R100). -/
def condField (n z p : Bool) : BitVec 3 := BitVec.ofBool n ++ BitVec.ofBool z ++ BitVec.ofBool p

/-- Whether BR is taken: `(IR[11:9] AND COND) != 0b000` (R100). -/
def State.branchTaken (s : State) (n z p : Bool) : Bool := condField n z p &&& s.cond != 0b000#3

/-- The write of a flag-updating instruction: R[DR] then SetCC(DR) (R28). -/
def State.setResult (s : State) (dr : Reg) (v : Word) : State := (s.setReg dr v).setCC dr

end Sys2Proof.Machine
end

