-- ==== Sys2Proof/Machine/Operands.lean ====
section
/-! DEFINITION. Operand assembly and the address-mode resolver (00_scope.md R7, R8; 30_encoding.md R66;
43_load.md R114). -/

namespace Sys2Proof.Machine

/-- Sign extension of an N-bit field to 16 bits (R7). -/
def sext {n : Nat} (v : BitVec n) : Word := v.signExtend 16

/-- PC-relative effective address, from the incremented PC (R114; 10_state.md R24). -/
def State.pcRel {n : Nat} (s : State) (off : BitVec n) : Word := s.pc + sext off

/-- Base + offset effective address (R114). -/
def State.basePlus (s : State) (baseR : Reg) (off6 : BitVec 6) : Word := s.reg baseR + sext off6

/-- Bits 7:0 of a value, the byte an output service sends first (20_memory.md R49). -/
def lowByte (v : Word) : Byte := v.extractLsb' 0 8

/-- Bits 15:8 of a value (R49). -/
def highByte (v : Word) : Byte := v.extractLsb' 8 8

end Sys2Proof.Machine
end

