-- ==== Sys2Proof/Machine/Control.lean ====
section
/-! DEFINITION. Control transfer (42_control.md R100 to R104) and the reserved classes (40_dispatcher.md R83,
R84). None writes COND. -/

namespace Sys2Proof.Machine

/-- BR (R100). -/
def execBr (n z p : Bool) (off9 : BitVec 9) (s : State) : Host.Outcome State Fault Refusal :=
  .next (if s.branchTaken n z p then s.setPc (s.pcRel off9) else s)

/-- JMP (R101). -/
def execJmp (baseR : Reg) (s : State) : Host.Outcome State Fault Refusal :=
  .next (s.setPc (s.reg baseR))

/-- R[7] <- PC, the link of a call (R102, R103; 10_state.md R22). -/
def State.link (s : State) : State := s.setReg .r7 s.pc

/-- JSR (R102). -/
def execJsr (off11 : BitVec 11) (s : State) : Host.Outcome State Fault Refusal :=
  .next (s.link.setPc (s.link.pcRel off11))

/-- JSRR: the base register is read after R7 was written (R103; 90_conflicts.md C5). -/
def execJsrr (baseR : Reg) (s : State) : Host.Outcome State Fault Refusal :=
  .next (s.link.setPc (s.link.reg baseR))

/-- Reserved class 0b1000: no effect beyond the fetch (R83). -/
def execRsv8 (s : State) : Host.Outcome State Fault Refusal := .next s

/-- Reserved class 0b1101: no effect beyond the fetch (R84). -/
def execRsvD (s : State) : Host.Outcome State Fault Refusal := .next s

end Sys2Proof.Machine
end

