-- ==== Sys2Proof/Machine/Load.lean ====
section
/-! DEFINITION. Loads and address load (43_load.md R110 to R113). -/

namespace Sys2Proof.Machine

/-- Loads R[DR] from cell ea through the Memory Unit, then SetCC(DR) (R110 to R112). -/
def State.loadFrom (s : State) (dr : Reg) (ea : Word) : State :=
  (s.memRead ea).2.setResult dr (s.memRead ea).1

/-- LD (R110). -/
def execLd (dr : Reg) (off9 : BitVec 9) (s : State) : Host.Outcome State Fault Refusal :=
  .next (s.loadFrom dr (s.pcRel off9))

/-- LDI: the pointer's read completes, its poll included, before the second read (R111). -/
def execLdi (dr : Reg) (off9 : BitVec 9) (s : State) : Host.Outcome State Fault Refusal :=
  .next ((s.memRead (s.pcRel off9)).2.loadFrom dr (s.memRead (s.pcRel off9)).1)

/-- LDR (R112). -/
def execLdr (dr baseR : Reg) (off6 : BitVec 6) (s : State) : Host.Outcome State Fault Refusal :=
  .next (s.loadFrom dr (s.basePlus baseR off6))

/-- LEA: no memory access (R113). -/
def execLea (dr : Reg) (off9 : BitVec 9) (s : State) : Host.Outcome State Fault Refusal :=
  .next (s.setResult dr (s.pcRel off9))

end Sys2Proof.Machine
end

