-- ==== Sys2Proof/Machine/Operate.lean ====
section
/-! DEFINITION. Operate instructions (41_operate.md R90 to R95). -/

namespace Sys2Proof.Machine

/-- ADD, register form (R90). -/
def execAddReg (dr sr1 sr2 : Reg) (s : State) : Host.Outcome State Fault Refusal :=
  .next (s.setResult dr (s.reg sr1 + s.reg sr2))

/-- ADD, immediate form (R91). -/
def execAddImm (dr sr1 : Reg) (imm5 : BitVec 5) (s : State) : Host.Outcome State Fault Refusal :=
  .next (s.setResult dr (s.reg sr1 + sext imm5))

/-- AND, register form (R92). -/
def execAndReg (dr sr1 sr2 : Reg) (s : State) : Host.Outcome State Fault Refusal :=
  .next (s.setResult dr (s.reg sr1 &&& s.reg sr2))

/-- AND, immediate form (R93). -/
def execAndImm (dr sr1 : Reg) (imm5 : BitVec 5) (s : State) : Host.Outcome State Fault Refusal :=
  .next (s.setResult dr (s.reg sr1 &&& sext imm5))

/-- NOT (R94). -/
def execNot (dr sr : Reg) (s : State) : Host.Outcome State Fault Refusal :=
  .next (s.setResult dr (~~~ s.reg sr))

end Sys2Proof.Machine
end

