-- ==== Sys2Proof/Machine/Store.lean ====
section
/-! DEFINITION. Stores (44_store.md R120 to R122). None writes COND. -/

namespace Sys2Proof.Machine

/-- ST (R120). -/
def execSt (sr : Reg) (off9 : BitVec 9) (s : State) : Host.Outcome State Fault Refusal :=
  .next (s.memWrite (s.pcRel off9) (s.reg sr))

/-- STI: the pointer is read through the Memory Unit and may poll; the write does not (R121). -/
def execSti (sr : Reg) (off9 : BitVec 9) (s : State) : Host.Outcome State Fault Refusal :=
  .next ((s.memRead (s.pcRel off9)).2.memWrite (s.memRead (s.pcRel off9)).1 (s.reg sr))

/-- STR (R122). -/
def execStr (sr baseR : Reg) (off6 : BitVec 6) (s : State) : Host.Outcome State Fault Refusal :=
  .next (s.memWrite (s.basePlus baseR off6) (s.reg sr))

end Sys2Proof.Machine
end

