-- ==== Sys2Proof/Machine/Trap.lean ====
section
/-! DEFINITION. TRAP and its six service routines (45_trap.md R130 to R139). A service is built into the core
and is part of the TRAP's one step (R138). -/

namespace Sys2Proof.Machine

/-- R[7] <- PC, only when `trapLinksR7` (R130). -/
def State.trapLink (s : State) : State := if s.params.trapLinksR7 then s.link else s

/-- SetCC(0), only when `trapInputSetsFlags` (R139). -/
def State.trapFlags (s : State) : State := if s.params.trapInputSetsFlags then s.setCC .r0 else s

/-- `b <- ReadByte()`: the first input byte, taken from the stream; none while the input source has no byte to
deliver (40_dispatcher.md R87). -/
def State.readByte (s : State) : Option (Byte × State) :=
  match s.input with
  | [] => none
  | b :: rest => some (b, { s with input := rest })

/-- The byte placed in R0 and, under the parameter, the flags (R131, R134). -/
def State.acceptByte (s : State) (b : Byte) : State := (s.setReg .r0 (zext b)).trapFlags

/-- The bytes PUTS outputs for one cell (R133). -/
def putsBytes (w : Word) : List Byte := [lowByte w]

/-- The bytes PUTSP outputs for one cell: the low byte, then the high byte if it is nonzero (R135). -/
def putspBytes (w : Word) : List Byte :=
  if highByte w = 0x00#8 then [lowByte w] else [lowByte w, highByte w]

/-- The scan of a string from address a over at most n cells, with no poll (20_memory.md R48): the bytes it
outputs, and whether it met a zero cell (R133, R135). -/
def scanString (bytes : Word → List Byte) (m : Memory) : Nat → Word → List Byte × Bool
  | 0, _ => ([], false)
  | n + 1, a =>
    if m.read a = 0x0000#16 then ([], true)
    else (bytes (m.read a) ++ (scanString bytes m n (a + 1#16)).1, (scanString bytes m n (a + 1#16)).2)

/-- The string at a, over the cells a to 0xFFFF: a scan that would pass 0xFFFF ends there (R133, R135). -/
def stringAt (bytes : Word → List Byte) (m : Memory) (a : Word) : List Byte × Bool :=
  scanString bytes m (65536 - a.toNat) a

/-- The string output of PUTS and PUTSP from R0: StringWrap if the scan met no zero cell (R133, R135). The
bytes output stay output. -/
def State.putString (s : State) (bytes : Word → List Byte) : State :=
  if (stringAt bytes s.mem (s.reg .r0)).2 then s.emit (stringAt bytes s.mem (s.reg .r0)).1
  else (s.emit (stringAt bytes s.mem (s.reg .r0)).1).raiseFatal (.stringWrap (s.reg .r0))

/-! The services, after the link of R130. -/

/-- GETC (R131); with no byte there is no step (40_dispatcher.md R87). -/
def serviceGetc (s : State) : Host.Outcome State Fault Refusal :=
  match s.readByte with
  | none => .fault .inputHold
  | some (b, t) => .next (t.acceptByte b)

/-- OUT (R132). -/
def serviceOut (s : State) : Host.Outcome State Fault Refusal :=
  .next (s.emit [lowByte (s.reg .r0)])

/-- PUTS (R133). -/
def servicePuts (s : State) : Host.Outcome State Fault Refusal := .next (s.putString putsBytes)

/-- IN: prompt, read, echo, R0 (R134); with no byte there is no step, and no prompt (40_dispatcher.md R87). -/
def serviceIn (s : State) : Host.Outcome State Fault Refusal :=
  match (s.emit s.params.inPrompt).readByte with
  | none => .fault .inputHold
  | some (b, t) => .next ((t.emit [b]).acceptByte b)

/-- PUTSP (R135). -/
def servicePutsp (s : State) : Host.Outcome State Fault Refusal := .next (s.putString putspBytes)

/-- HALT: the notice, then the end of the run (R136). -/
def serviceHalt (s : State) : Host.Outcome State Fault Refusal := .next (s.emit s.params.haltNotice).halt

/-- A vector outside the six: the diagnostic, then the fatal fault; R7 is not written (R137). -/
def unknownVector (v : Byte) (s : State) : Host.Outcome State Fault Refusal :=
  .next ((s.emit s.params.unknownTrapDiagnostic).raiseFatal (.unknownTrapVector v))

/-! The meanings. -/

/-- TRAP x20 (R130, R131). -/
def execTrapGetc (s : State) : Host.Outcome State Fault Refusal := serviceGetc s.trapLink

/-- TRAP x21 (R130, R132). -/
def execTrapOut (s : State) : Host.Outcome State Fault Refusal := serviceOut s.trapLink

/-- TRAP x22 (R130, R133). -/
def execTrapPuts (s : State) : Host.Outcome State Fault Refusal := servicePuts s.trapLink

/-- TRAP x23 (R130, R134). -/
def execTrapIn (s : State) : Host.Outcome State Fault Refusal := serviceIn s.trapLink

/-- TRAP x24 (R130, R135). -/
def execTrapPutsp (s : State) : Host.Outcome State Fault Refusal := servicePutsp s.trapLink

/-- TRAP x25 (R130, R136). -/
def execTrapHalt (s : State) : Host.Outcome State Fault Refusal := serviceHalt s.trapLink

/-- TRAP with any vector: the whole case distinction of R130. The decoder gives the general row only the
vectors outside the six (R137). -/
def execTrap (v : Byte) (s : State) : Host.Outcome State Fault Refusal :=
  match Service.ofVector v with
  | some .getc => serviceGetc s.trapLink
  | some .out => serviceOut s.trapLink
  | some .puts => servicePuts s.trapLink
  | some .input => serviceIn s.trapLink
  | some .putsp => servicePutsp s.trapLink
  | some .halt => serviceHalt s.trapLink
  | none => unknownVector v s

end Sys2Proof.Machine
end

