-- ==== Sys2Proof/Machine/Cycle.lean ====
section
/-! DEFINITION. One cycle of the core, and the host's moves between cycles (40_dispatcher.md R80 to R87;
60_exceptions.md R154, R155). -/

namespace Sys2Proof.Machine

/-- A held cycle has no partial effect: the core stays in the state before the cycle (R87). Log entry 8. -/
def holdAt (before : State) : Host.Outcome State Fault Refusal → Host.Outcome State Fault Refusal
  | .fault .inputHold => .next before
  | o => o

/-- Fetch, increment, execute (R80). -/
def cycle (s : State) : Host.Outcome State Fault Refusal :=
  holdAt s (exec (decode s.fetch.1) s.fetch.2)

/-- What happens next in a running machine: a move of the host, or a cycle (R154, R155, R87). Log entry 6. -/
def advance (s : State) : Host.Outcome State Fault Refusal :=
  match s.hostMoves with
  | [] => cycle s
  | .idle :: rest => cycle { s with hostMoves := rest }
  | .supply b :: rest => .next ({ s with hostMoves := rest }.supply b)
  | .terminate :: rest => .next { s with hostMoves := rest }.abort

end Sys2Proof.Machine
end

