-- ==== Sys2Proof/Machine/Step.lean ====
section
/-! DEFINITION. One step of the machine (40_dispatcher.md R85, R87). -/

namespace Sys2Proof.Machine

/-- One step: none in a terminal run state (10_state.md R31), else a move of the host or a cycle. -/
def step (s : State) : Host.Outcome State Fault Refusal :=
  if s.run = .running then advance s else .fault .notRunning

/-- s with the opcode-table word placed in the cell that the next fetch reads, as the image loader would
(70_reset_and_hazards.md R171). Log entry 9. -/
def State.withFetchWord (s : State) (nbits w : Nat) : State := s.placeWord (tableWord nbits w)

end Sys2Proof.Machine
end

