-- ==== Sys2Proof/Safety.lean ====
section
/-! DEFINITION. The terms in which claims about runs are made (70_reset_and_hazards.md R177). -/

namespace Sys2Proof.Machine

/-- A run has ended: the run state is terminal (R177; 10_state.md R31). -/
def State.ended (s : State) : Prop := s.run ≠ .running

/-- Only `Halted` is a normal end (R177). -/
def State.endedNormally (s : State) : Prop := s.run = .halted

/-- The run state records no fatal fault (60_exceptions.md R150). -/
def State.notFatal (s : State) : Prop := ∀ c, s.run ≠ .fatal c

/-- The host makes no move before the next cycle of s, and b is the state before that cycle: s, or s with the
host's idle move used up (40_dispatcher.md R80, R87). Log entry 6. -/
def BeforeCycle (s b : State) : Prop :=
  s.hostMoves = [] ∧ b = s ∨ ∃ rest, s.hostMoves = .idle :: rest ∧ b = { s with hostMoves := rest }

/-- COND holds one of its legal values: no flag, or exactly one (R26). -/
def State.condLegal (s : State) : Prop := s.cond = 0b000#3 ∨ s.cond = flagPos ∨ s.cond = flagZero ∨ s.cond = flagNeg

/-- The invariant of the machine: memory in canonical form, COND legal, the launch premises on the parameters
(20_memory.md R44). -/
structure State.Inv (s : State) : Prop where
  mem : s.mem.wf = true
  cond : s.condLegal
  params : s.params.wf = true

end Sys2Proof.Machine
end

