-- ==== Sys2Proof/Table.lean ====
section
/-! DEFINITION. The opcode table of 30_encoding.md, section 6 (spec/opcode_table.json): each row's fixed bits,
written down from the table and used by claims about the decoder, never by the decoder. -/

namespace Sys2Proof

/-- A row of the opcode table: a word belongs to it when its bits under `mask` are `pattern`. -/
structure Row where
  mask : Word
  pattern : Word
  deriving DecidableEq, Repr

/-- Whether a word belongs to a row. -/
abbrev Row.has (r : Row) (w : Word) : Prop := w &&& r.mask = r.pattern

/-- BR: `0000nzpfffffffff` -/
def rowBr : Row := ⟨0xF000#16, 0x0000#16⟩

/-- ADD: `0001dddsss0xxttt` -/
def rowAddReg : Row := ⟨0xF020#16, 0x1000#16⟩

/-- ADD: `0001dddsss1iiiii` -/
def rowAddImm : Row := ⟨0xF020#16, 0x1020#16⟩

/-- LD: `0010dddfffffffff` -/
def rowLd : Row := ⟨0xF000#16, 0x2000#16⟩

/-- ST: `0011dddfffffffff` -/
def rowSt : Row := ⟨0xF000#16, 0x3000#16⟩

/-- JSRR: `01000xxbbbxxxxxx` -/
def rowJsrr : Row := ⟨0xF800#16, 0x4000#16⟩

/-- JSR: `01001fffffffffff` -/
def rowJsr : Row := ⟨0xF800#16, 0x4800#16⟩

/-- AND: `0101dddsss0xxttt` -/
def rowAndReg : Row := ⟨0xF020#16, 0x5000#16⟩

/-- AND: `0101dddsss1iiiii` -/
def rowAndImm : Row := ⟨0xF020#16, 0x5020#16⟩

/-- LDR: `0110dddbbbffffff` -/
def rowLdr : Row := ⟨0xF000#16, 0x6000#16⟩

/-- STR: `0111dddbbbffffff` -/
def rowStr : Row := ⟨0xF000#16, 0x7000#16⟩

/-- RSV8: `1000xxxxxxxxxxxx` -/
def rowRsv8 : Row := ⟨0xF000#16, 0x8000#16⟩

/-- NOT: `1001dddsssxxxxxx` -/
def rowNot : Row := ⟨0xF000#16, 0x9000#16⟩

/-- LDI: `1010dddfffffffff` -/
def rowLdi : Row := ⟨0xF000#16, 0xA000#16⟩

/-- STI: `1011dddfffffffff` -/
def rowSti : Row := ⟨0xF000#16, 0xB000#16⟩

/-- JMP: `1100xxxbbbxxxxxx` -/
def rowJmp : Row := ⟨0xF000#16, 0xC000#16⟩

/-- RSVD: `1101xxxxxxxxxxxx` -/
def rowRsvD : Row := ⟨0xF000#16, 0xD000#16⟩

/-- LEA: `1110dddfffffffff` -/
def rowLea : Row := ⟨0xF000#16, 0xE000#16⟩

/-- TRAP: `1111xxxxvvvvvvvv` -/
def rowTrap : Row := ⟨0xF000#16, 0xF000#16⟩

/-- TRAP_GETC: `1111xxxx00100000` -/
def rowTrapGetc : Row := ⟨0xF0FF#16, 0xF020#16⟩

/-- TRAP_OUT: `1111xxxx00100001` -/
def rowTrapOut : Row := ⟨0xF0FF#16, 0xF021#16⟩

/-- TRAP_PUTS: `1111xxxx00100010` -/
def rowTrapPuts : Row := ⟨0xF0FF#16, 0xF022#16⟩

/-- TRAP_IN: `1111xxxx00100011` -/
def rowTrapIn : Row := ⟨0xF0FF#16, 0xF023#16⟩

/-- TRAP_PUTSP: `1111xxxx00100100` -/
def rowTrapPutsp : Row := ⟨0xF0FF#16, 0xF024#16⟩

/-- TRAP_HALT: `1111xxxx00100101` -/
def rowTrapHalt : Row := ⟨0xF0FF#16, 0xF025#16⟩

/-- The 19 class rows, disjoint and covering (30_encoding.md, section 6). -/
def classRows : List Row :=
  [rowBr, rowAddReg, rowAddImm, rowLd, rowSt, rowJsrr, rowJsr,
    rowAndReg, rowAndImm, rowLdr, rowStr, rowRsv8, rowNot, rowLdi,
    rowSti, rowJmp, rowRsvD, rowLea, rowTrap]

/-- The row of an instruction. -/
def Instr.row : Instr → Row
  | .br _ _ _ _ => rowBr
  | .addReg _ _ _ => rowAddReg
  | .addImm _ _ _ => rowAddImm
  | .ld _ _ => rowLd
  | .st _ _ => rowSt
  | .jsrr _ => rowJsrr
  | .jsr _ => rowJsr
  | .andReg _ _ _ => rowAndReg
  | .andImm _ _ _ => rowAndImm
  | .ldr _ _ _ => rowLdr
  | .str _ _ _ => rowStr
  | .rsv8 => rowRsv8
  | .not _ _ => rowNot
  | .ldi _ _ => rowLdi
  | .sti _ _ => rowSti
  | .jmp _ => rowJmp
  | .rsvD => rowRsvD
  | .lea _ _ => rowLea
  | .trapGetc => rowTrapGetc
  | .trapOut => rowTrapOut
  | .trapPuts => rowTrapPuts
  | .trapIn => rowTrapIn
  | .trapPutsp => rowTrapPutsp
  | .trapHalt => rowTrapHalt
  | .trap _ => rowTrap

/-- The class row of an instruction: the TRAP row for every TRAP. -/
def Instr.classRow : Instr → Row
  | .br _ _ _ _ => rowBr
  | .addReg _ _ _ => rowAddReg
  | .addImm _ _ _ => rowAddImm
  | .ld _ _ => rowLd
  | .st _ _ => rowSt
  | .jsrr _ => rowJsrr
  | .jsr _ => rowJsr
  | .andReg _ _ _ => rowAndReg
  | .andImm _ _ _ => rowAndImm
  | .ldr _ _ _ => rowLdr
  | .str _ _ _ => rowStr
  | .rsv8 => rowRsv8
  | .not _ _ => rowNot
  | .ldi _ _ => rowLdi
  | .sti _ _ => rowSti
  | .jmp _ => rowJmp
  | .rsvD => rowRsvD
  | .lea _ _ => rowLea
  | .trapGetc => rowTrap
  | .trapOut => rowTrap
  | .trapPuts => rowTrap
  | .trapIn => rowTrap
  | .trapPutsp => rowTrap
  | .trapHalt => rowTrap
  | .trap _ => rowTrap

/-- The bits of a word that the decoder does not ignore, for the words of an instruction (R67). -/
def Instr.readBits : Instr → Word
  | .br _ _ _ _ => 0xFFFF#16
  | .addReg _ _ _ => 0xFFE7#16
  | .addImm _ _ _ => 0xFFFF#16
  | .ld _ _ => 0xFFFF#16
  | .st _ _ => 0xFFFF#16
  | .jsrr _ => 0xF9C0#16
  | .jsr _ => 0xFFFF#16
  | .andReg _ _ _ => 0xFFE7#16
  | .andImm _ _ _ => 0xFFFF#16
  | .ldr _ _ _ => 0xFFFF#16
  | .str _ _ _ => 0xFFFF#16
  | .rsv8 => 0xF000#16
  | .not _ _ => 0xFFC0#16
  | .ldi _ _ => 0xFFFF#16
  | .sti _ _ => 0xFFFF#16
  | .jmp _ => 0xF1C0#16
  | .rsvD => 0xF000#16
  | .lea _ _ => 0xFFFF#16
  | .trapGetc => 0xF0FF#16
  | .trapOut => 0xF0FF#16
  | .trapPuts => 0xF0FF#16
  | .trapIn => 0xF0FF#16
  | .trapPutsp => 0xF0FF#16
  | .trapHalt => 0xF0FF#16
  | .trap _ => 0xF0FF#16

end Sys2Proof
end

