-- ==== Sys2Proof/Certificates/Slice0/Obligations.lean ====
section
/-! DEFINITION. The statements about the machine, from the numbered rules of spec/. The helpers of
`Sys2Proof.Spec` say the spec's terms without the model's own functions for them. -/

namespace Sys2Proof.Spec
open Sys2Proof.Machine

/-! Terms of the rules -/

/-- `w[hi:lo]` as an unsigned number (00_scope.md, section 4). -/
def field (w : Word) (hi lo : Nat) : Nat := w.toNat / 2 ^ lo % 2 ^ (hi + 1 - lo)

/-- The number of a register (10_state.md R21). -/
def number : Reg → Nat
  | .r0 => 0
  | .r1 => 1
  | .r2 => 2
  | .r3 => 3
  | .r4 => 4
  | .r5 => 5
  | .r6 => 6
  | .r7 => 7

/-- The 16-bit value with the signed value of an N-bit field (00_scope.md R7). -/
def signed {n : Nat} (v : BitVec n) : Word := BitVec.ofInt 16 v.toInt

/-- c is the flag mask of v: ZERO = 0b010, NEG = 0b100, POS = 0b001 (10_state.md R26, R27). -/
def FlagsOf (c : BitVec 3) (v : Word) : Prop :=
  (v = 0x0000#16 → c = 0b010#3) ∧ (v ≠ 0x0000#16 ∧ v.getLsbD 15 = true → c = 0b100#3) ∧
    (v ≠ 0x0000#16 ∧ v.getLsbD 15 = false → c = 0b001#3)

/-- The bytes 0x20 to 0x25 (45_trap.md R130). -/
def Recognized (v : Byte) : Prop := 0x20 ≤ v.toNat ∧ v.toNat ≤ 0x25

/-- The byte PUTS outputs for a cell: bits 7:0 (45_trap.md R133). -/
def lowCharacter (w : Word) : Byte := w.setWidth 8

/-- The bytes PUTSP outputs for a cell: bits 7:0, then bits 15:8 unless they are zero (45_trap.md R135). -/
def packedCharacters (w : Word) : List Byte :=
  w.setWidth 8 :: (if 256 ≤ w.toNat then [(w >>> 8).setWidth 8] else [])

/-! Frames -/

/-- What no instruction but TRAP changes: IR, the run state, the output, the host's coming moves, the
parameters. -/
structure Untouched (s t : State) : Prop where
  ir : t.ir = s.ir
  run : t.run = s.run
  out : t.out = s.out
  hostMoves : t.hostMoves = s.hostMoves
  params : t.params = s.params

/-- Memory, every cell of it, and the input side of the host are as in s. -/
structure MemoryAsIn (s t : State) : Prop where
  cells : ∀ a, t.mem.read a = s.mem.read a
  input : t.input = s.input
  polls : t.polls = s.polls
  pollCount : t.pollCount = s.pollCount

/-- t is s with v in register dr, COND set from v, memory and input as in m (s itself, or s after Memory Unit
reads), and all else as in s. -/
structure WritesReg (s m t : State) (dr : Reg) (v : Word) : Prop where
  result : t.reg dr = v
  flags : FlagsOf t.cond v
  others : ∀ r, r ≠ dr → t.reg r = s.reg r
  pc : t.pc = s.pc
  memory : MemoryAsIn m t
  untouched : Untouched s t

/-- t is s with v in cell ea, the other cells and the input as in m, and all else as in s. -/
structure WritesCell (s m t : State) (ea v : Word) : Prop where
  stored : t.mem.read ea = v
  cells : ∀ a, a ≠ ea → t.mem.read a = m.mem.read a
  input : t.input = m.input
  polls : t.polls = m.polls
  pollCount : t.pollCount = m.pollCount
  regs : ∀ r, t.reg r = s.reg r
  cond : t.cond = s.cond
  pc : t.pc = s.pc
  untouched : Untouched s t

/-- t is s with PC at target, R7 holding link if there is one, and all else as in s, COND too. -/
structure Jumps (s t : State) (target : Word) (link : Option Word) : Prop where
  pc : t.pc = target
  regs : ∀ r, t.reg r = if r = .r7 then link.getD (s.reg .r7) else s.reg r
  cond : t.cond = s.cond
  memory : MemoryAsIn s t
  untouched : Untouched s t

/-- What no TRAP changes: every cell, PC, IR, the polls, the host's coming moves, the parameters. -/
structure TrapFrame (s t : State) : Prop where
  cells : ∀ a, t.mem.read a = s.mem.read a
  pc : t.pc = s.pc
  ir : t.ir = s.ir
  polls : t.polls = s.polls
  pollCount : t.pollCount = s.pollCount
  hostMoves : t.hostMoves = s.hostMoves
  params : t.params = s.params

/-- R7 holds PC if `trapLinksR7`, and every other register is as in s (45_trap.md R130). -/
def LinkedRegs (s t : State) : Prop :=
  ∀ r, t.reg r = if s.params.trapLinksR7 = true ∧ r = .r7 then s.pc else s.reg r

/-- t is s after a service that outputs bs, ends with the run state and writes no register but the link. -/
structure Outputs (s t : State) (bs : List Byte) (run : RunState) : Prop where
  out : t.out = s.out ++ bs
  run : t.run = run
  regs : LinkedRegs s t
  cond : t.cond = s.cond
  input : t.input = s.input
  frame : TrapFrame s t

/-- t is s after a service that takes the first input byte b into R0 and outputs bs. -/
structure Inputs (s t : State) (b : Byte) (bs : List Byte) : Prop where
  input : s.input = b :: t.input
  result : (t.reg .r0).toNat = b.toNat
  link : t.reg .r7 = if s.params.trapLinksR7 = true then s.pc else s.reg .r7
  others : ∀ r, r ≠ .r0 → r ≠ .r7 → t.reg r = s.reg r
  flagsSet : s.params.trapInputSetsFlags = true → FlagsOf t.cond (t.reg .r0)
  flagsKept : s.params.trapInputSetsFlags = false → t.cond = s.cond
  out : t.out = s.out ++ bs
  run : t.run = s.run
  frame : TrapFrame s t

/-! What each instruction writes (10_state.md R23, R25, R28; 20_memory.md R47) -/

/-- The register that COND follows, if the instruction updates COND (R28). -/
def condFrom (p : Params) : Instr → Option Reg
  | .addReg dr _ _ | .addImm dr _ _ | .andReg dr _ _ | .andImm dr _ _ | .not dr _ => some dr
  | .ld dr _ | .ldi dr _ | .ldr dr _ _ | .lea dr _ => some dr
  | .trapGetc | .trapIn => if p.trapInputSetsFlags then some .r0 else none
  | .br _ _ _ _ | .st _ _ | .jsrr _ | .jsr _ | .str _ _ _ | .rsv8 | .sti _ _ | .jmp _ | .rsvD => none
  | .trapOut | .trapPuts | .trapPutsp | .trapHalt | .trap _ => none

/-- The general registers an instruction may write (R23). -/
def regsWritten (p : Params) : Instr → List Reg
  | .addReg dr _ _ | .addImm dr _ _ | .andReg dr _ _ | .andImm dr _ _ | .not dr _ => [dr]
  | .ld dr _ | .ldi dr _ | .ldr dr _ _ | .lea dr _ => [dr]
  | .jsr _ | .jsrr _ => [.r7]
  | .trapGetc | .trapIn => if p.trapLinksR7 then [.r0, .r7] else [.r0]
  | .trapOut | .trapPuts | .trapPutsp | .trapHalt => if p.trapLinksR7 then [.r7] else []
  | .br _ _ _ _ | .st _ _ | .str _ _ _ | .rsv8 | .sti _ _ | .jmp _ | .rsvD | .trap _ => []

/-- Whether the instruction writes PC in this state: a taken BR, JMP, JSR, JSRR (R25). -/
def writesPc (s : State) : Instr → Prop
  | .br n z p _ => s.branchTaken n z p = true
  | .jmp _ | .jsr _ | .jsrr _ => True
  | .addReg _ _ _ | .addImm _ _ _ | .andReg _ _ _ | .andImm _ _ _ | .not _ _ | .ld _ _ | .ldi _ _ | .ldr _ _ _
  | .lea _ _ | .st _ _ | .str _ _ _ | .rsv8 | .sti _ _ | .rsvD | .trapGetc | .trapOut | .trapPuts | .trapIn
  | .trapPutsp | .trapHalt | .trap _ => False

/-- The cells an instruction may write: the one a store computes, and the device cells for an instruction that
reads memory through the Memory Unit (R47). -/
def cellsWritten (s : State) : Instr → List Word
  | .st _ off => [s.pcRel off]
  | .str _ baseR off => [s.basePlus baseR off]
  | .sti _ off => [(s.memRead (s.pcRel off)).1, s.params.kbsrAddr, s.params.kbdrAddr]
  | .ld _ _ | .ldi _ _ | .ldr _ _ _ => [s.params.kbsrAddr, s.params.kbdrAddr]
  | .addReg _ _ _ | .addImm _ _ _ | .andReg _ _ _ | .andImm _ _ _ | .not _ _ | .lea _ _ | .br _ _ _ _ | .jmp _
  | .jsr _ | .jsrr _ | .rsv8 | .rsvD | .trapGetc | .trapOut | .trapPuts | .trapIn | .trapPutsp | .trapHalt
  | .trap _ => []

/-- Apply f to the next state of an outcome. -/
def mapNext (f : State → State) : Host.Outcome State Fault Refusal → Host.Outcome State Fault Refusal
  | .next t => .next (f t)
  | .fault r => .fault r
  | .refused r => .refused r

/-- The state that the cycle's instruction sees: the fetched word in IR and PC incremented, memory and input
after the fetch's read (40_dispatcher.md R80, R81). -/
def seen (s : State) : State :=
  { (s.memRead s.pc).2 with ir := (s.memRead s.pc).1, pc := s.pc + 1#16 }

/-- The instruction the next cycle fetches. -/
def fetched (s : State) : Instr := decode (s.memRead s.pc).1

end Sys2Proof.Spec

open Sys2Proof Sys2Proof.Machine Sys2Proof.Spec

/-! Encoding (30_encoding.md). The class numbers and the field positions rest on the spec's own decisions D1,
D2, D4 and D8. -/

/-- Decoding the word of a well-formed instruction gives it back, with every operand at every value. -/
def Obligations.DecodeAfterEncodeIsIdentity : Prop :=
  ∀ i : Instr, i.wf = true → decode (encode i) = i

/-- Every word decodes to a well-formed instruction, and encoding that gives back every bit of the word that
the decoder does not ignore (R67, R69). -/
def Obligations.EncodeAfterDecodeKeepsReadBits : Prop :=
  ∀ w : Word, (decode w).wf = true ∧
    encode (decode w) &&& (decode w).readBits = w &&& (decode w).readBits

/-- Ignored bits do not matter, and every other bit does: two words decode to one instruction exactly when
they agree on the bits that the decoder reads (R67; the ignoring is the spec's decision D8). -/
def Obligations.DecodeIgnoresExactlyTheIgnoredBits : Prop :=
  ∀ w v : Word, decode v = decode w ↔ v &&& (decode w).readBits = w &&& (decode w).readBits

/-- The 19 class rows of the opcode table are disjoint and cover every word, and the decoder gives a word the
instruction of its row; the six service rows refine the TRAP row by vector (section 6). -/
def Obligations.OpcodeTableRowsPartitionTheWords : Prop :=
  ∀ w : Word, (decode w).classRow ∈ classRows ∧ (decode w).row.has w ∧
    ∀ r ∈ classRows, (r.has w ↔ r = (decode w).classRow)

/-- Words written out from the spec's own examples decode to what the examples say (95_test_vectors.md). -/
def Obligations.SpecExampleWordsDecode : Prop :=
  decode 0x1021#16 = .addImm .r0 .r0 1#5 ∧ decode 0x5020#16 = .andImm .r0 .r0 0#5 ∧
    decode 0x1042#16 = .addReg .r0 .r1 .r2 ∧ decode 0x0403#16 = .br false true false 3#9 ∧
    decode 0x6641#16 = .ldr .r3 .r1 1#6 ∧ decode 0xB402#16 = .sti .r2 2#9 ∧
    decode 0x4807#16 = .jsr 7#11 ∧ decode 0x41C0#16 = .jsrr .r7 ∧ decode 0xF022#16 = .trapPuts ∧
    decode 0xF025#16 = .trapHalt ∧ decode 0xF026#16 = .trap 0x26#8

/-! Operate instructions (41_operate.md). Each statement has the word's clause and the clause of the effect. -/

/-- ADD, register form (R90): encoding, result, flags, frame. Bits 4:3 are ignored (D8), SR2 is 2:0 (D2). -/
def Obligations.AddRegister : Prop :=
  (∀ w : Word, w &&& 0xF020#16 = 0x1000#16 → ∃ dr sr1 sr2, decode w = .addReg dr sr1 sr2 ∧
      number dr = field w 11 9 ∧ number sr1 = field w 8 6 ∧ number sr2 = field w 2 0) ∧
    ∀ (dr sr1 sr2 : Reg) (s : State), ∃ (t : State) (v : Word), exec (.addReg dr sr1 sr2) s = .next t ∧
      v.toNat = ((s.reg sr1).toNat + (s.reg sr2).toNat) % 65536 ∧ WritesReg s s t dr v

/-- ADD, immediate form (R91): encoding, result, flags, frame. -/
def Obligations.AddImmediate : Prop :=
  (∀ w : Word, w &&& 0xF020#16 = 0x1020#16 → ∃ dr sr1 imm, decode w = .addImm dr sr1 imm ∧
      number dr = field w 11 9 ∧ number sr1 = field w 8 6 ∧ imm.toNat = field w 4 0) ∧
    ∀ (dr sr1 : Reg) (imm : BitVec 5) (s : State), ∃ (t : State) (v : Word),
      exec (.addImm dr sr1 imm) s = .next t ∧
      v.toNat = ((s.reg sr1).toNat + (signed imm).toNat) % 65536 ∧ WritesReg s s t dr v

/-- AND, register form (R92): encoding, result bit by bit, flags, frame. Bits 4:3 are ignored (D8). -/
def Obligations.AndRegister : Prop :=
  (∀ w : Word, w &&& 0xF020#16 = 0x5000#16 → ∃ dr sr1 sr2, decode w = .andReg dr sr1 sr2 ∧
      number dr = field w 11 9 ∧ number sr1 = field w 8 6 ∧ number sr2 = field w 2 0) ∧
    ∀ (dr sr1 sr2 : Reg) (s : State), ∃ (t : State) (v : Word), exec (.andReg dr sr1 sr2) s = .next t ∧
      (∀ k, v.getLsbD k = ((s.reg sr1).getLsbD k && (s.reg sr2).getLsbD k)) ∧ WritesReg s s t dr v

/-- AND, immediate form (R93): encoding, result bit by bit, flags, frame. -/
def Obligations.AndImmediate : Prop :=
  (∀ w : Word, w &&& 0xF020#16 = 0x5020#16 → ∃ dr sr1 imm, decode w = .andImm dr sr1 imm ∧
      number dr = field w 11 9 ∧ number sr1 = field w 8 6 ∧ imm.toNat = field w 4 0) ∧
    ∀ (dr sr1 : Reg) (imm : BitVec 5) (s : State), ∃ (t : State) (v : Word),
      exec (.andImm dr sr1 imm) s = .next t ∧
      (∀ k, v.getLsbD k = ((s.reg sr1).getLsbD k && (signed imm).getLsbD k)) ∧ WritesReg s s t dr v

/-- NOT (R94): encoding, result bit by bit, flags, frame. Class number D1, bits 5:0 ignored D8. -/
def Obligations.NotComplement : Prop :=
  (∀ w : Word, w &&& 0xF000#16 = 0x9000#16 → ∃ dr sr, decode w = .not dr sr ∧
      number dr = field w 11 9 ∧ number sr = field w 8 6) ∧
    ∀ (dr sr : Reg) (s : State), ∃ (t : State) (v : Word), exec (.not dr sr) s = .next t ∧
      (∀ k < 16, v.getLsbD k = !(s.reg sr).getLsbD k) ∧ WritesReg s s t dr v

/-! Control transfer (42_control.md). Class numbers and field positions are the spec's decisions D1, D2. -/

/-- BR (R100): encoding; taken exactly when a selected flag is set; PC-relative target from the incremented
PC; nothing else changes. With COND = 0b000 no BR is taken. -/
def Obligations.BranchOnSelectedFlags : Prop :=
  (∀ w : Word, w &&& 0xF000#16 = 0x0000#16 → ∃ n z p off, decode w = .br n z p off ∧
      n.toNat = field w 11 11 ∧ z.toNat = field w 10 10 ∧ p.toNat = field w 9 9 ∧
      off.toNat = field w 8 0) ∧
    ∀ (n z p : Bool) (off : BitVec 9) (s : State), ∃ t : State, exec (.br n z p off) s = .next t ∧
      Jumps s t
        (if (n && s.cond.getLsbD 2 || z && s.cond.getLsbD 1 || p && s.cond.getLsbD 0) = true
          then s.pc + signed off else s.pc) none

/-- JMP (R101): encoding; PC becomes the base register; nothing else changes. -/
def Obligations.JumpToBaseRegister : Prop :=
  (∀ w : Word, w &&& 0xF000#16 = 0xC000#16 → ∃ b, decode w = .jmp b ∧ number b = field w 8 6) ∧
    ∀ (b : Reg) (s : State), ∃ t : State, exec (.jmp b) s = .next t ∧ Jumps s t (s.reg b) none

/-- JSR (R102): encoding; R7 gets the incremented PC; PC-relative target; nothing else changes, COND neither. -/
def Obligations.JumpSubroutineRelative : Prop :=
  (∀ w : Word, w &&& 0xF800#16 = 0x4800#16 → ∃ off, decode w = .jsr off ∧ off.toNat = field w 10 0) ∧
    ∀ (off : BitVec 11) (s : State), ∃ t : State, exec (.jsr off) s = .next t ∧
      Jumps s t (s.pc + signed off) (some s.pc)

/-- JSRR (R103): encoding; R7 gets the incremented PC; the base is read after that, so JSRR R7 continues at
the next instruction; nothing else changes, COND neither. -/
def Obligations.JumpSubroutineRegister : Prop :=
  (∀ w : Word, w &&& 0xF800#16 = 0x4000#16 → ∃ b, decode w = .jsrr b ∧ number b = field w 8 6) ∧
    ∀ (b : Reg) (s : State), ∃ t : State, exec (.jsrr b) s = .next t ∧
      Jumps s t (if b = .r7 then s.pc else s.reg b) (some s.pc)

/-- The reserved classes 0b1000 and 0b1101 (40_dispatcher.md R83, R84): encoding with bits 11:0 ignored, and no
effect at all beyond the fetch. Which two classes are reserved is the spec's decision D1. -/
def Obligations.ReservedClassesDoNothing : Prop :=
  (∀ w : Word, w &&& 0xF000#16 = 0x8000#16 → decode w = .rsv8) ∧
    (∀ w : Word, w &&& 0xF000#16 = 0xD000#16 → decode w = .rsvD) ∧
    ∀ s : State, exec .rsv8 s = .next s ∧ exec .rsvD s = .next s

/-! Loads (43_load.md). Class numbers and field positions are the spec's decisions D1, D2. The read is the
Memory Unit's, whose effect the statements on `memRead` give; off the keyboard-status cell it changes nothing. -/

/-- LD (R110): encoding; the Memory Unit's read of PC +16 sext_9; flags; frame; away from the
keyboard-status cell the register gets the stored cell. -/
def Obligations.LoadPcRelative : Prop :=
  (∀ w : Word, w &&& 0xF000#16 = 0x2000#16 → ∃ dr off, decode w = .ld dr off ∧
      number dr = field w 11 9 ∧ off.toNat = field w 8 0) ∧
    ∀ (dr : Reg) (off : BitVec 9) (s : State), ∃ t : State, exec (.ld dr off) s = .next t ∧
      WritesReg s (s.memRead (s.pc + signed off)).2 t dr (s.memRead (s.pc + signed off)).1 ∧
      (s.pc + signed off ≠ s.params.kbsrAddr → WritesReg s s t dr (s.mem.read (s.pc + signed off)))

/-- LDI (R111): encoding; two Memory Unit reads, the first one complete before the second; flags from the
second; frame; away from the keyboard-status cell it is double indirection. -/
def Obligations.LoadIndirect : Prop :=
  (∀ w : Word, w &&& 0xF000#16 = 0xA000#16 → ∃ dr off, decode w = .ldi dr off ∧
      number dr = field w 11 9 ∧ off.toNat = field w 8 0) ∧
    ∀ (dr : Reg) (off : BitVec 9) (s m : State) (pointer : Word),
      s.memRead (s.pc + signed off) = (pointer, m) → ∃ t : State, exec (.ldi dr off) s = .next t ∧
      WritesReg s (m.memRead pointer).2 t dr (m.memRead pointer).1 ∧
      (s.pc + signed off ≠ s.params.kbsrAddr → s.mem.read (s.pc + signed off) ≠ s.params.kbsrAddr →
        WritesReg s s t dr (s.mem.read (s.mem.read (s.pc + signed off))))

/-- LDR (R112): encoding; the Memory Unit's read of the base +16 sext_6; flags; frame. -/
def Obligations.LoadBaseOffset : Prop :=
  (∀ w : Word, w &&& 0xF000#16 = 0x6000#16 → ∃ dr b off, decode w = .ldr dr b off ∧
      number dr = field w 11 9 ∧ number b = field w 8 6 ∧ off.toNat = field w 5 0) ∧
    ∀ (dr b : Reg) (off : BitVec 6) (s : State), ∃ t : State, exec (.ldr dr b off) s = .next t ∧
      WritesReg s (s.memRead (s.reg b + signed off)).2 t dr (s.memRead (s.reg b + signed off)).1 ∧
      (s.reg b + signed off ≠ s.params.kbsrAddr → WritesReg s s t dr (s.mem.read (s.reg b + signed off)))

/-- LEA (R113): encoding; the address itself, with no memory access and no poll; flags from it; frame. -/
def Obligations.LoadEffectiveAddress : Prop :=
  (∀ w : Word, w &&& 0xF000#16 = 0xE000#16 → ∃ dr off, decode w = .lea dr off ∧
      number dr = field w 11 9 ∧ off.toNat = field w 8 0) ∧
    ∀ (dr : Reg) (off : BitVec 9) (s : State), ∃ t : State, exec (.lea dr off) s = .next t ∧
      WritesReg s s t dr (s.pc + signed off)

/-! Stores (44_store.md). Class numbers and field positions are the spec's decisions D1, D2. Memory in its
canonical form is the premise (`StepKeepsTheInvariant`). -/

/-- ST (R120): encoding; R[SR] to the cell PC +16 sext_9, every other cell and all else as before. -/
def Obligations.StorePcRelative : Prop :=
  (∀ w : Word, w &&& 0xF000#16 = 0x3000#16 → ∃ sr off, decode w = .st sr off ∧
      number sr = field w 11 9 ∧ off.toNat = field w 8 0) ∧
    ∀ (sr : Reg) (off : BitVec 9) (s : State), s.mem.wf = true → ∃ t : State,
      exec (.st sr off) s = .next t ∧ WritesCell s s t (s.pc + signed off) (s.reg sr)

/-- STI (R121): encoding; the pointer is the Memory Unit's read, the write comes after its poll and does not
poll; every other cell as that read left it. -/
def Obligations.StoreIndirect : Prop :=
  (∀ w : Word, w &&& 0xF000#16 = 0xB000#16 → ∃ sr off, decode w = .sti sr off ∧
      number sr = field w 11 9 ∧ off.toNat = field w 8 0) ∧
    ∀ (sr : Reg) (off : BitVec 9) (s m : State) (pointer : Word), s.mem.wf = true →
      s.memRead (s.pc + signed off) = (pointer, m) → ∃ t : State, exec (.sti sr off) s = .next t ∧
      WritesCell s m t pointer (s.reg sr) ∧
      (s.pc + signed off ≠ s.params.kbsrAddr →
        WritesCell s s t (s.mem.read (s.pc + signed off)) (s.reg sr))

/-- STR (R122): encoding; R[SR] to the cell base +16 sext_6, every other cell and all else as before. -/
def Obligations.StoreBaseOffset : Prop :=
  (∀ w : Word, w &&& 0xF000#16 = 0x7000#16 → ∃ sr b off, decode w = .str sr b off ∧
      number sr = field w 11 9 ∧ number b = field w 8 6 ∧ off.toNat = field w 5 0) ∧
    ∀ (sr b : Reg) (off : BitVec 6) (s : State), s.mem.wf = true → ∃ t : State,
      exec (.str sr b off) s = .next t ∧ WritesCell s s t (s.reg b + signed off) (s.reg sr)

/-! TRAP (45_trap.md). The vectors of GETC, OUT, IN and PUTSP are the spec's decision D4, `trapLinksR7` D9,
`trapInputSetsFlags` D10, the texts D16; the statements hold for every value of the parameters. -/

/-- A TRAP word decodes to the service of its bits 7:0, or to the general row for a vector outside the six;
bits 11:8 are ignored (R130, D8). -/
def Obligations.TrapVectorSelectsTheService : Prop :=
  ∀ w : Word, w &&& 0xF000#16 = 0xF000#16 →
    (decode w = .trapGetc ↔ field w 7 0 = 0x20) ∧ (decode w = .trapOut ↔ field w 7 0 = 0x21) ∧
    (decode w = .trapPuts ↔ field w 7 0 = 0x22) ∧ (decode w = .trapIn ↔ field w 7 0 = 0x23) ∧
    (decode w = .trapPutsp ↔ field w 7 0 = 0x24) ∧ (decode w = .trapHalt ↔ field w 7 0 = 0x25) ∧
    (¬ (0x20 ≤ field w 7 0 ∧ field w 7 0 ≤ 0x25) → ∃ v, decode w = .trap v ∧ v.toNat = field w 7 0)

/-- The general TRAP term runs the service of its vector: exec of it is exec of the instruction that the decoder
gives that vector. Its content is the meaning of the six ill-formed terms `.trap 0x20` to `.trap 0x25`, which the
decoder never gives: no rule says what they mean, and that is the model's choice, log entry 12. -/
def Obligations.TrapRowRunsTheServiceOfItsVector : Prop :=
  ∀ (v : Byte) (s : State), exec (.trap v) s = exec (decode (encodeTrap v)) s

/-- GETC (R131) with a byte there: the first input byte, zero-extended, in R0, no output; flags and link only
under their parameters; frame. -/
def Obligations.GetcReadsOneByte : Prop :=
  ∀ (s : State) (b : Byte) (rest : List Byte), s.input = b :: rest →
    ∃ t : State, exec .trapGetc s = .next t ∧ Inputs s t b []

/-- OUT (R132): the low byte of R0, nothing else but the link. -/
def Obligations.OutWritesTheLowByteOfR0 : Prop :=
  ∀ s : State, ∃ t : State, exec .trapOut s = .next t ∧ Outputs s t [lowCharacter (s.reg .r0)] s.run

/-- PUTS (R133): n nonzero cells from R0, then a zero cell, all within memory: the low byte of each of the n,
in order, and no poll wherever the string lies. -/
def Obligations.PutsWritesTheString : Prop :=
  ∀ (s : State) (n : Nat), (s.reg .r0).toNat + n < 65536 →
    (∀ k < n, s.mem.read (s.reg .r0 + BitVec.ofNat 16 k) ≠ 0x0000#16) →
    s.mem.read (s.reg .r0 + BitVec.ofNat 16 n) = 0x0000#16 →
    ∃ t : State, exec .trapPuts s = .next t ∧ Outputs s t
      ((List.range n).map fun k => lowCharacter (s.mem.read (s.reg .r0 + BitVec.ofNat 16 k))) s.run

/-- IN (R134) with a byte there: the prompt, then the byte echoed, and the byte in R0 as GETC does. -/
def Obligations.InPromptsReadsAndEchoes : Prop :=
  ∀ (s : State) (b : Byte) (rest : List Byte), s.input = b :: rest →
    ∃ t : State, exec .trapIn s = .next t ∧ Inputs s t b (s.params.inPrompt ++ [b])

/-- PUTSP (R135): n nonzero cells from R0, then a zero cell: the low byte of each, then its high byte unless
that is zero. -/
def Obligations.PutspWritesThePackedString : Prop :=
  ∀ (s : State) (n : Nat), (s.reg .r0).toNat + n < 65536 →
    (∀ k < n, s.mem.read (s.reg .r0 + BitVec.ofNat 16 k) ≠ 0x0000#16) →
    s.mem.read (s.reg .r0 + BitVec.ofNat 16 n) = 0x0000#16 →
    ∃ t : State, exec .trapPutsp s = .next t ∧ Outputs s t
      ((List.range n).flatMap fun k => packedCharacters (s.mem.read (s.reg .r0 + BitVec.ofNat 16 k))) s.run

/-- A PUTS or PUTSP scan that meets no zero cell up to 0xFFFF ends the run with StringWrap, recording R0; the
bytes output stay output, and no register but the link, no cell, no flag changes (R133, R135; the fault is the
spec's decision D12). -/
def Obligations.UnterminatedStringIsFatal : Prop :=
  ∀ s : State, (∀ k, (s.reg .r0).toNat + k < 65536 →
      s.mem.read (s.reg .r0 + BitVec.ofNat 16 k) ≠ 0x0000#16) →
    (∃ t : State, exec .trapPuts s = .next t ∧ Outputs s t
      ((List.range (65536 - (s.reg .r0).toNat)).map fun k =>
        lowCharacter (s.mem.read (s.reg .r0 + BitVec.ofNat 16 k))) (.fatal (.stringWrap (s.reg .r0)))) ∧
    (∃ t : State, exec .trapPutsp s = .next t ∧ Outputs s t
      ((List.range (65536 - (s.reg .r0).toNat)).flatMap fun k =>
        packedCharacters (s.mem.read (s.reg .r0 + BitVec.ofNat 16 k))) (.fatal (.stringWrap (s.reg .r0))))

/-- HALT (R136): the notice, and the run state Halted; PC keeps the incremented value, no register but the
link, no cell, no flag changes. -/
def Obligations.HaltWritesTheNoticeAndStops : Prop :=
  ∀ s : State, ∃ t : State, exec .trapHalt s = .next t ∧ Outputs s t s.params.haltNotice .halted

/-- A vector outside the six (R137): the diagnostic, and Fatal(UnknownTrapVector, v); R7 is unchanged whatever
`trapLinksR7` is, and so is everything else. -/
def Obligations.UnknownVectorIsFatal : Prop :=
  ∀ (v : Byte) (s : State), ¬ Recognized v → ∃ t : State, exec (.trap v) s = .next t ∧
    t.out = s.out ++ s.params.unknownTrapDiagnostic ∧ t.run = .fatal (.unknownTrapVector v) ∧
    (∀ r, t.reg r = s.reg r) ∧ t.cond = s.cond ∧ t.input = s.input ∧ TrapFrame s t

/-! Rules over the whole instruction set -/

/-- COND follows the destination register of the flag-updating instructions and of no other (R28). -/
def Obligations.CondFollowsTheFlagUpdatingInstructions : Prop :=
  (∀ (i : Instr) (s t : State), i.wf = true → exec i s = .next t →
    (∀ dr, condFrom s.params i = some dr → FlagsOf t.cond (t.reg dr)) ∧
    (condFrom s.params i = none → t.cond = s.cond)) ∧
    ∀ s : State, s.fetch.2.cond = s.cond

/-- Only the registers of R23's table are written. -/
def Obligations.OnlyTheListedRegistersAreWritten : Prop :=
  ∀ (i : Instr) (s t : State) (r : Reg), i.wf = true → exec i s = .next t →
    r ∉ regsWritten s.params i → t.reg r = s.reg r

/-- PC is written only by a taken BR, JMP, JSR and JSRR, and by the fetch, which adds 1 and wraps (R25, R81);
TRAP continues at the next instruction (R138). -/
def Obligations.OnlyControlTransferWritesPc : Prop :=
  (∀ (i : Instr) (s t : State), exec i s = .next t → ¬ writesPc s i → t.pc = s.pc) ∧
    ∀ s : State, s.fetch.2.pc.toNat = (s.pc.toNat + 1) % 65536

/-- A cell changes only by the store of the instruction, or as a device cell by a read (R47, R52, R55). -/
def Obligations.OnlyTheListedCellsAreWritten : Prop :=
  ∀ (i : Instr) (s t : State) (a : Word), exec i s = .next t →
    a ∉ cellsWritten s i → t.mem.read a = s.mem.read a

/-- COND is read by no instruction but BR (R29): with another COND, every other instruction does the same,
and COND is what it writes or else that other COND. -/
def Obligations.OnlyBranchReadsCond : Prop :=
  ∀ (i : Instr) (s : State) (c : BitVec 3), i.wf = true → (∀ n z p off, i ≠ .br n z p off) →
    exec i { s with cond := c } =
      mapNext (fun t => if condFrom s.params i = none then { t with cond := c } else t) (exec i s)

/-- No instruction observes IR, and none writes it (R30). A step whose cycle runs an instruction leaves in IR the
word it fetched, in a terminal state too; a held cycle and a move of the host, which complete no cycle, leave IR as
it was. That a hold and a host move are steps at all is the model's choice, log entries 8 and 6. -/
def Obligations.NoInstructionObservesIr : Prop :=
  (∀ (i : Instr) (s : State) (w : Word),
    exec i { s with ir := w } = mapNext (fun t => { t with ir := w }) (exec i s)) ∧
    ∀ s t : State, step s = .next t →
      (∀ b, BeforeCycle s b →
        (exec (fetched b) (seen b) ≠ .fault .inputHold → t.ir = (s.memRead s.pc).1) ∧
        (exec (fetched b) (seen b) = .fault .inputHold → t.ir = s.ir)) ∧
      (∀ x rest, s.hostMoves = .supply x :: rest → t.ir = s.ir) ∧
      (∀ rest, s.hostMoves = .terminate :: rest → t.ir = s.ir)

/-- No instruction is refused, and the only fault is the hold: exec answers a next state except for GETC and
IN with no input byte (R69, R87, R150); that R87's missing step is exec's fault `inputHold` is the model's choice,
log entry 8. -/
def Obligations.ExecStopsOnlyForWantOfInput : Prop :=
  ∀ (i : Instr) (s : State), i.wf = true →
    (∃ t, exec i s = .next t) ∨ (exec i s = .fault .inputHold ∧ (i = .trapGetc ∨ i = .trapIn) ∧ s.input = [])

/-- Input bytes are consumed from the front, in order, and output is only appended to (R34, R166): over an
instruction, and over a step. A byte joins the input, at its end, exactly when the host's move before the step
supplies it; that such a move is a step is the model's choice, log entry 6. -/
def Obligations.StreamsAreInOrder : Prop :=
  (∀ (i : Instr) (s t : State), exec i s = .next t → t.input <:+ s.input ∧ s.out <+: t.out) ∧
    ∀ s t : State, step s = .next t → s.out <+: t.out ∧
      (∀ b rest, s.hostMoves = .supply b :: rest → t.input = s.input ++ [b]) ∧
      ((∀ b rest, s.hostMoves ≠ .supply b :: rest) → t.input <:+ s.input)

/-! The Memory Unit (20_memory.md) -/

/-- MemWrite at every address, the device cells too (R42): the cell, and nothing else; a value stored at the
keyboard-status cell is overwritten by the next read of it. -/
def Obligations.MemWriteSetsOneCell : Prop :=
  ∀ (s : State) (a v : Word), s.mem.wf = true → s.params.kbsrAddr ≠ s.params.kbdrAddr →
    WritesCell s s (s.memWrite a v) a v ∧
    ((s.memWrite s.params.kbsrAddr v).memRead s.params.kbsrAddr).1 = (s.memRead s.params.kbsrAddr).1

/-- MemRead away from the keyboard-status cell returns the stored value and changes nothing (R43). -/
def Obligations.MemReadElsewhereChangesNothing : Prop :=
  ∀ (s : State) (a : Word), a ≠ s.params.kbsrAddr → s.memRead a = (s.mem.read a, s)

/-- A keyboard-status read whose poll is ready (R44): one input byte is consumed, the status cell gets
KBSR_READY, the data cell the zero-extended byte, and the read returns the status; nothing else changes. The
value of the status is the spec's parameter D6, the zero extension D15. -/
def Obligations.KeyboardStatusReadWhenReady : Prop :=
  ∀ (s : State) (b : Byte) (rest : List Byte), s.mem.wf = true → s.params.kbsrAddr ≠ s.params.kbdrAddr →
    s.input = b :: rest → s.draw = true →
    ∃ t : State, s.memRead s.params.kbsrAddr = (s.params.kbsrReady, t) ∧
      t.mem.read s.params.kbsrAddr = s.params.kbsrReady ∧ (t.mem.read s.params.kbdrAddr).toNat = b.toNat ∧
      (∀ a, a ≠ s.params.kbsrAddr → a ≠ s.params.kbdrAddr → t.mem.read a = s.mem.read a) ∧
      t.input = rest ∧ (∀ r, t.reg r = s.reg r) ∧ t.cond = s.cond ∧ t.pc = s.pc ∧ Untouched s t

/-- A keyboard-status read whose poll is not ready (R44): the status cell is cleared, the read returns 0x0000,
the data cell, the input and everything else is unchanged. With no input byte the poll is never ready (R45). -/
def Obligations.KeyboardStatusReadWhenNotReady : Prop :=
  ∀ s : State, s.mem.wf = true → (s.input = [] ∨ s.draw = false) →
    ∃ t : State, s.memRead s.params.kbsrAddr = (0x0000#16, t) ∧
      t.mem.read s.params.kbsrAddr = 0x0000#16 ∧
      (∀ a, a ≠ s.params.kbsrAddr → t.mem.read a = s.mem.read a) ∧
      t.input = s.input ∧ (∀ r, t.reg r = s.reg r) ∧ t.cond = s.cond ∧ t.pc = s.pc ∧ Untouched s t

/-- When the input stream has a byte, a poll may answer both ways, as the draw says; each poll uses one draw
(R45; that a draw is part of the state is the model's choice, log entry 5). -/
def Obligations.BothPollAnswersAreAdmitted : Prop :=
  ∀ (s : State) (b : Byte) (rest : List Byte) (d : Bool) (ds : List Bool), s.input = b :: rest →
    s.polls = d :: ds →
    s.polledByte = (if d = true then some b else none) ∧
    (s.memRead s.params.kbsrAddr).2.polls = ds ∧
    (s.memRead s.params.kbsrAddr).2.input = (if d = true then rest else b :: rest)

/-- Two memories in canonical form that agree on every cell are equal (the form is the model's choice, log
entry 1). -/
def Obligations.CanonicalMemoryIsDeterminedByItsCells : Prop :=
  ∀ m m' : Memory, m.wf = true → m'.wf = true → (∀ a, m.read a = m'.read a) → m = m'

/-- A store is seen by the next fetch, with nothing in between (R58): the word stored at PC is the one
fetched, except at the keyboard-status cell. -/
def Obligations.StoreIsSeenByTheNextFetch : Prop :=
  ∀ (s : State) (w : Word), s.mem.wf = true → s.pc ≠ s.params.kbsrAddr → (s.memWrite s.pc w).fetch.1 = w

/-! Sign extension and flags -/

/-- Sign extension (00_scope.md R7): a clear sign bit leaves the field, a set one sets all bits above it. -/
def Obligations.SignExtensionKeepsTheSignedValue : Prop :=
  ∀ n ∈ [5, 6, 9, 11], ∀ v : BitVec n,
    (v.getLsbD (n - 1) = false → (sext v).toNat = v.toNat) ∧
    (v.getLsbD (n - 1) = true → (sext v).toNat = v.toNat + 65536 - 2 ^ n ∧
      sext v = (0xFFFF#16 <<< n) ||| v.setWidth 16)

/-- The Condition-Flag Updater (10_state.md R27): COND from the register, exactly one flag, a second run leaves
it, and nothing but COND changes. -/
def Obligations.CondFlagUpdater : Prop :=
  ∀ (s : State) (i : Reg), FlagsOf (s.setCC i).cond (s.reg i) ∧
    ((s.setCC i).cond = 0b001#3 ∨ (s.setCC i).cond = 0b010#3 ∨ (s.setCC i).cond = 0b100#3) ∧
    (s.setCC i).setCC i = s.setCC i ∧ { s.setCC i with cond := s.cond } = s

/-! The step (40_dispatcher.md, 60_exceptions.md) -/

/-- A step runs the decoded instruction (R80, R81, R87): in a running machine whose host makes no move before
the cycle, when the word at PC decodes to the well-formed instruction i, the step is exec of i on the state with
that word in IR and PC advanced; a hold leaves the state before the cycle. Away from the keyboard-status cell the
word is the stored one and the fetch changes IR and PC only. b is the state before the cycle, the host's idle
move used up. Two clauses are the model's choice and no rule's: that a held cycle is a step, to b, where R87 (c) has no
step (log entry 8), and the host's schedule (log entry 6). -/
def Obligations.StepRunsTheDecodedInstruction : Prop :=
  ∀ (s b : State) (i : Instr), s.run = .running → i.wf = true →
    (s.hostMoves = [] ∧ b = s ∨ ∃ rest, s.hostMoves = .idle :: rest ∧ b = { s with hostMoves := rest }) →
    fetched b = i →
    (∀ t, exec i (seen b) = .next t → step s = .next t) ∧
    (exec i (seen b) = .fault .inputHold → step s = .next b) ∧
    (b.pc ≠ b.params.kbsrAddr →
      fetched b = decode (b.mem.read b.pc) ∧ seen b = { b with ir := b.mem.read b.pc, pc := b.pc + 1#16 })

/-- A running machine always makes a step, at every PC and with every word (R69, R86). It does so with no input
byte too, where R87 (c) has no step for GETC and IN: that the hold is a step to the state before the cycle is the
model's choice, log entry 8. -/
def Obligations.RunningMachineAlwaysSteps : Prop :=
  ∀ s : State, s.run = .running → ∃ t, step s = .next t

/-- No step leaves a terminal run state (10_state.md R31; 40_dispatcher.md R86); the fault's name is the
model's, log entry 15. -/
def Obligations.EndedMachineMakesNoStep : Prop :=
  ∀ s : State, s.ended → step s = .fault .notRunning

/-- A GETC or IN with no input byte holds: the step changes nothing (R87; that the hold is a step to the same
state is the model's choice, log entry 8). -/
def Obligations.HeldCycleChangesNothing : Prop :=
  ∀ s : State, s.run = .running → s.hostMoves = [] → s.input = [] →
    (fetched s = .trapGetc ∨ fetched s = .trapIn) → step s = .next s

/-- The termination request is taken between cycles and changes nothing but the run state, also when the
machine would hold (60_exceptions.md R154, R155; when it is taken is the spec's decision D17, and that it
is a step of its own the model's choice, log entry 6). -/
def Obligations.TerminationRequestAborts : Prop :=
  ∀ (s : State) (rest : List HostMove), s.run = .running → s.hostMoves = .terminate :: rest →
    ∃ t, step s = .next t ∧ t.run = .aborted ∧ t.mem = s.mem ∧ t.regs = s.regs ∧ t.pc = s.pc ∧
      t.cond = s.cond ∧ t.ir = s.ir ∧ t.input = s.input ∧ t.out = s.out ∧ t.ended

/-- In every running state, a byte that the host supplies goes to the end of the input stream and changes nothing
else, no cell and no register (R166, the spec's decision D25); and it lifts the hold of a GETC (R87). That the
supply is a step of its own is the model's choice, log entry 6. -/
def Obligations.SuppliedByteLiftsTheHold : Prop :=
  (∀ (s : State) (b : Byte) (rest : List HostMove), s.run = .running → s.hostMoves = .supply b :: rest →
    ∃ t, step s = .next t ∧ t.input = s.input ++ [b] ∧ t.hostMoves = rest ∧ t.mem = s.mem ∧ t.regs = s.regs ∧
      t.pc = s.pc ∧ t.cond = s.cond ∧ t.ir = s.ir ∧ t.out = s.out ∧ t.run = s.run ∧ t.polls = s.polls ∧
      t.pollCount = s.pollCount ∧ t.params = s.params) ∧
  ∀ (s : State) (b : Byte), s.run = .running → s.input = [] → s.pc ≠ s.params.kbsrAddr →
    decode (s.mem.read s.pc) = .trapGetc → s.hostMoves = [.supply b] →
    ∃ t u, step s = .next t ∧ step t = .next u ∧ (u.reg .r0).toNat = b.toNat ∧ u.input = [] ∧
      u.pc = s.pc + 1#16

/-- Only HALT, an unknown vector, an unterminated string and the host end a run, each with its own run state
(R31, R150, R151); the host's moves as data are the model's choice, log entry 6. -/
def Obligations.OnlyTheseEventsEndARun : Prop :=
  ∀ s t : State, step s = .next t → t.run ≠ .running →
    (s.hostMoves.head? = some .terminate ∧ t.run = .aborted) ∨
    (fetched s = .trapHalt ∧ t.run = .halted) ∨
    (∃ v, fetched s = .trap v ∧ ¬ Recognized v ∧ t.run = .fatal (.unknownTrapVector v)) ∨
    ((fetched s = .trapPuts ∨ fetched s = .trapPutsp) ∧
      t.run = .fatal (.stringWrap (s.reg .r0)))

/-- The invariant: memory in canonical form, COND a legal value, the launch premises on the parameters. Every
step keeps it, in states no run reaches too; and no step changes the parameters (log entries 1 and 3). -/
def Obligations.StepKeepsTheInvariant : Prop :=
  ∀ s t : State, s.Inv → step s = .next t → t.Inv ∧ t.params = s.params

/-! Reset and boot (10_state.md R36; 70_reset_and_hazards.md) -/

/-- The state after reset, for every launch (R36): memory, registers, COND, IR zero, PC at PC_START, Running, no
output. The default launch arguments of State.reset are the model's choice, log entry 4. -/
def Obligations.ResetState : Prop :=
  (∀ (p : Params) (input : List Byte) (polls : List Bool) (moves : List HostMove) (s : State),
    s = State.launch p input polls moves →
    (∀ a, s.mem.read a = 0x0000#16) ∧ (∀ r, s.reg r = 0x0000#16) ∧ s.pc = p.pcStart ∧ s.cond = 0b000#3 ∧
      s.ir = 0x0000#16 ∧ s.run = .running ∧ s.out = [] ∧ s.input = input ∧ s.params = p) ∧
    State.reset.pc = 0x3000#16 ∧ State.reset.params.kbsrAddr = 0xFE00#16 ∧
    State.reset.params.kbdrAddr = 0xFE02#16 ∧ State.reset.params.kbsrReady = 0x8000#16 ∧
    State.reset.params.trapLinksR7 = false ∧ State.reset.params.trapInputSetsFlags = false

/-- Every launch with parameters that meet the premises satisfies the invariant, and so does reset, whatever
the free texts are. -/
def Obligations.LaunchSatisfiesTheInvariant : Prop :=
  (∀ (p : Params) (input : List Byte) (polls : List Bool) (moves : List HostMove), p.wf = true →
    (State.launch p input polls moves).Inv) ∧ State.reset.Inv

/-- The image loader (R171): an image that fits is written word by word from its origin, and nothing else
changes. -/
def Obligations.LoadedImageIsInMemory : Prop :=
  ∀ (s : State) (origin : Word) (ws : List Word), s.mem.wf = true → origin.toNat + ws.length ≤ 65536 →
    (∀ (k : Nat) (h : k < ws.length),
      (s.loadImage origin ws).mem.read (origin + BitVec.ofNat 16 k) = ws[k]) ∧
    (∀ a : Word, (∀ k < ws.length, a ≠ origin + BitVec.ofNat 16 k) →
      (s.loadImage origin ws).mem.read a = s.mem.read a) ∧
    { s.loadImage origin ws with mem := s.mem } = s
end

