-- ==== Sys2Proof/Laws/Encode.lean ====
section
/-! SUPPORT. The bits of the encoder's word shapes, and the register and vector fields. -/

namespace Sys2Proof

/-- Two words are equal when their 16 bits are. -/
theorem eq_of_bits {a b : Word} (h : ∀ i < 16, a.getLsbD i = b.getLsbD i) : a = b :=
  BitVec.eq_of_getLsbD_eq h

/-- A bit under a mask is the pattern's bit. -/
theorem getLsbD_of_and_eq {w m p : Word} (h : w &&& m = p) {k : Nat} (hm : m.getLsbD k = true) :
    w.getLsbD k = p.getLsbD k := by
  have := congrArg (·.getLsbD k) h
  simpa [hm] using this

theorem getLsbD_word439 (op : BitVec 4) (a : BitVec 3) (x : BitVec 9) (i : Nat) :
    (word439 op a x).getLsbD i =
      if i < 9 then x.getLsbD i else if i - 9 < 3 then a.getLsbD (i - 9) else op.getLsbD (i - 9 - 3) :=
  (BitVec.getLsbD_append (x := op ++ a) (y := x)).trans (by rw [BitVec.getLsbD_append])

theorem getLsbD_word4336 (op : BitVec 4) (a b : BitVec 3) (x : BitVec 6) (i : Nat) :
    (word4336 op a b x).getLsbD i =
      if i < 6 then x.getLsbD i else if i - 6 < 3 then b.getLsbD (i - 6)
      else if i - 6 - 3 < 3 then a.getLsbD (i - 6 - 3) else op.getLsbD (i - 6 - 3 - 3) :=
  (BitVec.getLsbD_append (x := op ++ a ++ b) (y := x)).trans (by
    rw [BitVec.getLsbD_append, BitVec.getLsbD_append])

theorem getLsbD_word4111 (op : BitVec 4) (m : BitVec 1) (x : BitVec 11) (i : Nat) :
    (word4111 op m x).getLsbD i =
      if i < 11 then x.getLsbD i else if i - 11 < 1 then m.getLsbD (i - 11) else op.getLsbD (i - 11 - 1) :=
  (BitVec.getLsbD_append (x := op ++ m) (y := x)).trans (by rw [BitVec.getLsbD_append])

theorem getLsbD_word448 (op x : BitVec 4) (v : Byte) (i : Nat) :
    (word448 op x v).getLsbD i =
      if i < 8 then v.getLsbD i else if i - 8 < 4 then x.getLsbD (i - 8) else op.getLsbD (i - 8 - 4) :=
  (BitVec.getLsbD_append (x := op ++ x) (y := v)).trans (by rw [BitVec.getLsbD_append])

/-- The bits of SR2's half of an operate word. -/
theorem getLsbD_low33 (a b : BitVec 3) (i : Nat) :
    ((a ++ b : BitVec 6)).getLsbD i = if i < 3 then b.getLsbD i else a.getLsbD (i - 3) :=
  BitVec.getLsbD_append

/-- The bits of the immediate half of an operate word. -/
theorem getLsbD_low15 (a : BitVec 1) (b : BitVec 5) (i : Nat) :
    ((a ++ b : BitVec 6)).getLsbD i = if i < 5 then b.getLsbD i else a.getLsbD (i - 5) :=
  BitVec.getLsbD_append

/-- The bits of BR's condition field. -/
theorem getLsbD_nzp (n z p : Bool) (i : Nat) :
    ((BitVec.ofBool n ++ BitVec.ofBool z ++ BitVec.ofBool p : BitVec 3)).getLsbD i =
      if i = 0 then p else if i = 1 then z else if i = 2 then n else false := by
  match i with
  | 0 | 1 | 2 => revert n z p; decide
  | i + 3 => simp [BitVec.getLsbD_of_ge]

@[simp] theorem Reg.ofBits_bits (r : Reg) : Reg.ofBits r.bits = r := by cases r <;> rfl

@[simp] theorem Reg.bits_ofBits (b : BitVec 3) : (Reg.ofBits b).bits = b := by revert b; decide

theorem Reg.bits_injective {a b : Reg} (h : a.bits = b.bits) : a = b := by
  rw [← Reg.ofBits_bits a, h, Reg.ofBits_bits]

@[simp] theorem Service.ofVector_vector (v : Service) : Service.ofVector v.vector = some v := by
  cases v <;> rfl

/-- The vector decoder picks a service exactly by its vector (45_trap.md R130). -/
theorem Service.ofVector_eq_some {v : Byte} {k : Service} : Service.ofVector v = some k ↔ v = k.vector := by
  constructor
  · unfold Service.ofVector
    split_ifs with h1 h2 h3 h4 h5 h6 <;> intro h <;> cases h <;> assumption
  · rintro rfl; exact Service.ofVector_vector k

end Sys2Proof
end

