-- ==== Sys2Proof/Laws/State.lean ====
section
/-! SUPPORT. One lemma per field per update of State, true by rfl, so that no proof unfolds a record update. -/

namespace Sys2Proof.Machine

variable (s : State)

/-! `setReg` -/

@[simp] theorem State.setReg_mem (i : Reg) (v : Word) : (s.setReg i v).mem = s.mem := rfl
@[simp] theorem State.setReg_pc (i : Reg) (v : Word) : (s.setReg i v).pc = s.pc := rfl
@[simp] theorem State.setReg_cond (i : Reg) (v : Word) : (s.setReg i v).cond = s.cond := rfl
@[simp] theorem State.setReg_regs (i : Reg) (v : Word) : (s.setReg i v).regs = s.regs.write i v := rfl
@[simp] theorem State.setReg_ir (i : Reg) (v : Word) : (s.setReg i v).ir = s.ir := rfl
@[simp] theorem State.setReg_run (i : Reg) (v : Word) : (s.setReg i v).run = s.run := rfl
@[simp] theorem State.setReg_input (i : Reg) (v : Word) : (s.setReg i v).input = s.input := rfl
@[simp] theorem State.setReg_out (i : Reg) (v : Word) : (s.setReg i v).out = s.out := rfl
@[simp] theorem State.setReg_polls (i : Reg) (v : Word) : (s.setReg i v).polls = s.polls := rfl
@[simp] theorem State.setReg_pollCount (i : Reg) (v : Word) : (s.setReg i v).pollCount = s.pollCount := rfl
@[simp] theorem State.setReg_hostMoves (i : Reg) (v : Word) : (s.setReg i v).hostMoves = s.hostMoves := rfl
@[simp] theorem State.setReg_params (i : Reg) (v : Word) : (s.setReg i v).params = s.params := rfl

/-! `setPc` -/

@[simp] theorem State.setPc_mem (t : Word) : (s.setPc t).mem = s.mem := rfl
@[simp] theorem State.setPc_pc (t : Word) : (s.setPc t).pc = t := rfl
@[simp] theorem State.setPc_cond (t : Word) : (s.setPc t).cond = s.cond := rfl
@[simp] theorem State.setPc_regs (t : Word) : (s.setPc t).regs = s.regs := rfl
@[simp] theorem State.setPc_ir (t : Word) : (s.setPc t).ir = s.ir := rfl
@[simp] theorem State.setPc_run (t : Word) : (s.setPc t).run = s.run := rfl
@[simp] theorem State.setPc_input (t : Word) : (s.setPc t).input = s.input := rfl
@[simp] theorem State.setPc_out (t : Word) : (s.setPc t).out = s.out := rfl
@[simp] theorem State.setPc_polls (t : Word) : (s.setPc t).polls = s.polls := rfl
@[simp] theorem State.setPc_pollCount (t : Word) : (s.setPc t).pollCount = s.pollCount := rfl
@[simp] theorem State.setPc_hostMoves (t : Word) : (s.setPc t).hostMoves = s.hostMoves := rfl
@[simp] theorem State.setPc_params (t : Word) : (s.setPc t).params = s.params := rfl

/-! `emit` -/

@[simp] theorem State.emit_mem (bs : List Byte) : (s.emit bs).mem = s.mem := rfl
@[simp] theorem State.emit_pc (bs : List Byte) : (s.emit bs).pc = s.pc := rfl
@[simp] theorem State.emit_cond (bs : List Byte) : (s.emit bs).cond = s.cond := rfl
@[simp] theorem State.emit_regs (bs : List Byte) : (s.emit bs).regs = s.regs := rfl
@[simp] theorem State.emit_ir (bs : List Byte) : (s.emit bs).ir = s.ir := rfl
@[simp] theorem State.emit_run (bs : List Byte) : (s.emit bs).run = s.run := rfl
@[simp] theorem State.emit_input (bs : List Byte) : (s.emit bs).input = s.input := rfl
@[simp] theorem State.emit_out (bs : List Byte) : (s.emit bs).out = s.out ++ bs := rfl
@[simp] theorem State.emit_polls (bs : List Byte) : (s.emit bs).polls = s.polls := rfl
@[simp] theorem State.emit_pollCount (bs : List Byte) : (s.emit bs).pollCount = s.pollCount := rfl
@[simp] theorem State.emit_hostMoves (bs : List Byte) : (s.emit bs).hostMoves = s.hostMoves := rfl
@[simp] theorem State.emit_params (bs : List Byte) : (s.emit bs).params = s.params := rfl

/-! `drawn` -/

@[simp] theorem State.drawn_mem : (s.drawn).mem = s.mem := rfl
@[simp] theorem State.drawn_pc : (s.drawn).pc = s.pc := rfl
@[simp] theorem State.drawn_cond : (s.drawn).cond = s.cond := rfl
@[simp] theorem State.drawn_regs : (s.drawn).regs = s.regs := rfl
@[simp] theorem State.drawn_ir : (s.drawn).ir = s.ir := rfl
@[simp] theorem State.drawn_run : (s.drawn).run = s.run := rfl
@[simp] theorem State.drawn_input : (s.drawn).input = s.input := rfl
@[simp] theorem State.drawn_out : (s.drawn).out = s.out := rfl
@[simp] theorem State.drawn_polls : (s.drawn).polls = s.polls.tail := rfl
@[simp] theorem State.drawn_pollCount : (s.drawn).pollCount = s.pollCount + 1 := rfl
@[simp] theorem State.drawn_hostMoves : (s.drawn).hostMoves = s.hostMoves := rfl
@[simp] theorem State.drawn_params : (s.drawn).params = s.params := rfl

/-! `memWrite` -/

@[simp] theorem State.memWrite_mem (a v : Word) : (s.memWrite a v).mem = s.mem.write a v := rfl
@[simp] theorem State.memWrite_pc (a v : Word) : (s.memWrite a v).pc = s.pc := rfl
@[simp] theorem State.memWrite_cond (a v : Word) : (s.memWrite a v).cond = s.cond := rfl
@[simp] theorem State.memWrite_regs (a v : Word) : (s.memWrite a v).regs = s.regs := rfl
@[simp] theorem State.memWrite_ir (a v : Word) : (s.memWrite a v).ir = s.ir := rfl
@[simp] theorem State.memWrite_run (a v : Word) : (s.memWrite a v).run = s.run := rfl
@[simp] theorem State.memWrite_input (a v : Word) : (s.memWrite a v).input = s.input := rfl
@[simp] theorem State.memWrite_out (a v : Word) : (s.memWrite a v).out = s.out := rfl
@[simp] theorem State.memWrite_polls (a v : Word) : (s.memWrite a v).polls = s.polls := rfl
@[simp] theorem State.memWrite_pollCount (a v : Word) : (s.memWrite a v).pollCount = s.pollCount := rfl
@[simp] theorem State.memWrite_hostMoves (a v : Word) : (s.memWrite a v).hostMoves = s.hostMoves := rfl
@[simp] theorem State.memWrite_params (a v : Word) : (s.memWrite a v).params = s.params := rfl

/-! `raiseFatal` -/

@[simp] theorem State.raiseFatal_mem (c : FatalCause) : (s.raiseFatal c).mem = s.mem := rfl
@[simp] theorem State.raiseFatal_pc (c : FatalCause) : (s.raiseFatal c).pc = s.pc := rfl
@[simp] theorem State.raiseFatal_cond (c : FatalCause) : (s.raiseFatal c).cond = s.cond := rfl
@[simp] theorem State.raiseFatal_regs (c : FatalCause) : (s.raiseFatal c).regs = s.regs := rfl
@[simp] theorem State.raiseFatal_ir (c : FatalCause) : (s.raiseFatal c).ir = s.ir := rfl
@[simp] theorem State.raiseFatal_run (c : FatalCause) : (s.raiseFatal c).run = .fatal c := rfl
@[simp] theorem State.raiseFatal_input (c : FatalCause) : (s.raiseFatal c).input = s.input := rfl
@[simp] theorem State.raiseFatal_out (c : FatalCause) : (s.raiseFatal c).out = s.out := rfl
@[simp] theorem State.raiseFatal_polls (c : FatalCause) : (s.raiseFatal c).polls = s.polls := rfl
@[simp] theorem State.raiseFatal_pollCount (c : FatalCause) : (s.raiseFatal c).pollCount = s.pollCount := rfl
@[simp] theorem State.raiseFatal_hostMoves (c : FatalCause) : (s.raiseFatal c).hostMoves = s.hostMoves := rfl
@[simp] theorem State.raiseFatal_params (c : FatalCause) : (s.raiseFatal c).params = s.params := rfl

/-! `halt` -/

@[simp] theorem State.halt_mem : (s.halt).mem = s.mem := rfl
@[simp] theorem State.halt_pc : (s.halt).pc = s.pc := rfl
@[simp] theorem State.halt_cond : (s.halt).cond = s.cond := rfl
@[simp] theorem State.halt_regs : (s.halt).regs = s.regs := rfl
@[simp] theorem State.halt_ir : (s.halt).ir = s.ir := rfl
@[simp] theorem State.halt_run : (s.halt).run = .halted := rfl
@[simp] theorem State.halt_input : (s.halt).input = s.input := rfl
@[simp] theorem State.halt_out : (s.halt).out = s.out := rfl
@[simp] theorem State.halt_polls : (s.halt).polls = s.polls := rfl
@[simp] theorem State.halt_pollCount : (s.halt).pollCount = s.pollCount := rfl
@[simp] theorem State.halt_hostMoves : (s.halt).hostMoves = s.hostMoves := rfl
@[simp] theorem State.halt_params : (s.halt).params = s.params := rfl

/-! `abort` -/

@[simp] theorem State.abort_mem : (s.abort).mem = s.mem := rfl
@[simp] theorem State.abort_pc : (s.abort).pc = s.pc := rfl
@[simp] theorem State.abort_cond : (s.abort).cond = s.cond := rfl
@[simp] theorem State.abort_regs : (s.abort).regs = s.regs := rfl
@[simp] theorem State.abort_ir : (s.abort).ir = s.ir := rfl
@[simp] theorem State.abort_run : (s.abort).run = .aborted := rfl
@[simp] theorem State.abort_input : (s.abort).input = s.input := rfl
@[simp] theorem State.abort_out : (s.abort).out = s.out := rfl
@[simp] theorem State.abort_polls : (s.abort).polls = s.polls := rfl
@[simp] theorem State.abort_pollCount : (s.abort).pollCount = s.pollCount := rfl
@[simp] theorem State.abort_hostMoves : (s.abort).hostMoves = s.hostMoves := rfl
@[simp] theorem State.abort_params : (s.abort).params = s.params := rfl

/-! `supply` -/

@[simp] theorem State.supply_mem (b : Byte) : (s.supply b).mem = s.mem := rfl
@[simp] theorem State.supply_pc (b : Byte) : (s.supply b).pc = s.pc := rfl
@[simp] theorem State.supply_cond (b : Byte) : (s.supply b).cond = s.cond := rfl
@[simp] theorem State.supply_regs (b : Byte) : (s.supply b).regs = s.regs := rfl
@[simp] theorem State.supply_ir (b : Byte) : (s.supply b).ir = s.ir := rfl
@[simp] theorem State.supply_run (b : Byte) : (s.supply b).run = s.run := rfl
@[simp] theorem State.supply_input (b : Byte) : (s.supply b).input = s.input ++ [b] := rfl
@[simp] theorem State.supply_out (b : Byte) : (s.supply b).out = s.out := rfl
@[simp] theorem State.supply_polls (b : Byte) : (s.supply b).polls = s.polls := rfl
@[simp] theorem State.supply_pollCount (b : Byte) : (s.supply b).pollCount = s.pollCount := rfl
@[simp] theorem State.supply_hostMoves (b : Byte) : (s.supply b).hostMoves = s.hostMoves := rfl
@[simp] theorem State.supply_params (b : Byte) : (s.supply b).params = s.params := rfl

/-! `setCC` -/

@[simp] theorem State.setCC_mem (i : Reg) : (s.setCC i).mem = s.mem := rfl
@[simp] theorem State.setCC_pc (i : Reg) : (s.setCC i).pc = s.pc := rfl
@[simp] theorem State.setCC_cond (i : Reg) : (s.setCC i).cond = flagsOf (s.reg i) := rfl
@[simp] theorem State.setCC_regs (i : Reg) : (s.setCC i).regs = s.regs := rfl
@[simp] theorem State.setCC_ir (i : Reg) : (s.setCC i).ir = s.ir := rfl
@[simp] theorem State.setCC_run (i : Reg) : (s.setCC i).run = s.run := rfl
@[simp] theorem State.setCC_input (i : Reg) : (s.setCC i).input = s.input := rfl
@[simp] theorem State.setCC_out (i : Reg) : (s.setCC i).out = s.out := rfl
@[simp] theorem State.setCC_polls (i : Reg) : (s.setCC i).polls = s.polls := rfl
@[simp] theorem State.setCC_pollCount (i : Reg) : (s.setCC i).pollCount = s.pollCount := rfl
@[simp] theorem State.setCC_hostMoves (i : Reg) : (s.setCC i).hostMoves = s.hostMoves := rfl
@[simp] theorem State.setCC_params (i : Reg) : (s.setCC i).params = s.params := rfl

/-! `link` -/

@[simp] theorem State.link_mem : (s.link).mem = s.mem := rfl
@[simp] theorem State.link_pc : (s.link).pc = s.pc := rfl
@[simp] theorem State.link_cond : (s.link).cond = s.cond := rfl
@[simp] theorem State.link_regs : (s.link).regs = s.regs.write .r7 s.pc := rfl
@[simp] theorem State.link_ir : (s.link).ir = s.ir := rfl
@[simp] theorem State.link_run : (s.link).run = s.run := rfl
@[simp] theorem State.link_input : (s.link).input = s.input := rfl
@[simp] theorem State.link_out : (s.link).out = s.out := rfl
@[simp] theorem State.link_polls : (s.link).polls = s.polls := rfl
@[simp] theorem State.link_pollCount : (s.link).pollCount = s.pollCount := rfl
@[simp] theorem State.link_hostMoves : (s.link).hostMoves = s.hostMoves := rfl
@[simp] theorem State.link_params : (s.link).params = s.params := rfl

/-! `setResult` -/

@[simp] theorem State.setResult_mem (dr : Reg) (v : Word) : (s.setResult dr v).mem = s.mem := rfl
@[simp] theorem State.setResult_pc (dr : Reg) (v : Word) : (s.setResult dr v).pc = s.pc := rfl
@[simp] theorem State.setResult_regs (dr : Reg) (v : Word) : (s.setResult dr v).regs = s.regs.write dr v := rfl
@[simp] theorem State.setResult_ir (dr : Reg) (v : Word) : (s.setResult dr v).ir = s.ir := rfl
@[simp] theorem State.setResult_run (dr : Reg) (v : Word) : (s.setResult dr v).run = s.run := rfl
@[simp] theorem State.setResult_input (dr : Reg) (v : Word) : (s.setResult dr v).input = s.input := rfl
@[simp] theorem State.setResult_out (dr : Reg) (v : Word) : (s.setResult dr v).out = s.out := rfl
@[simp] theorem State.setResult_polls (dr : Reg) (v : Word) : (s.setResult dr v).polls = s.polls := rfl
@[simp] theorem State.setResult_pollCount (dr : Reg) (v : Word) : (s.setResult dr v).pollCount = s.pollCount := rfl
@[simp] theorem State.setResult_hostMoves (dr : Reg) (v : Word) : (s.setResult dr v).hostMoves = s.hostMoves := rfl
@[simp] theorem State.setResult_params (dr : Reg) (v : Word) : (s.setResult dr v).params = s.params := rfl

/-! `fetch` -/

@[simp] theorem State.fetch_pc : s.fetch.2.pc = s.pc + 1#16 := rfl
@[simp] theorem State.fetch_ir : s.fetch.2.ir = s.fetch.1 := rfl
@[simp] theorem State.fetch_mem : s.fetch.2.mem = (s.afterRead s.pc).mem := rfl
@[simp] theorem State.fetch_cond : s.fetch.2.cond = (s.afterRead s.pc).cond := rfl
@[simp] theorem State.fetch_regs : s.fetch.2.regs = (s.afterRead s.pc).regs := rfl
@[simp] theorem State.fetch_run : s.fetch.2.run = (s.afterRead s.pc).run := rfl
@[simp] theorem State.fetch_input : s.fetch.2.input = (s.afterRead s.pc).input := rfl
@[simp] theorem State.fetch_out : s.fetch.2.out = (s.afterRead s.pc).out := rfl
@[simp] theorem State.fetch_polls : s.fetch.2.polls = (s.afterRead s.pc).polls := rfl
@[simp] theorem State.fetch_pollCount : s.fetch.2.pollCount = (s.afterRead s.pc).pollCount := rfl
@[simp] theorem State.fetch_hostMoves : s.fetch.2.hostMoves = (s.afterRead s.pc).hostMoves := rfl
@[simp] theorem State.fetch_params : s.fetch.2.params = (s.afterRead s.pc).params := rfl

/-! `launch` and `reset` (10_state.md R36) -/

section Launch
variable (p : Params) (input : List Byte) (polls : List Bool) (hostMoves : List HostMove)

@[simp] theorem State.launch_mem : (State.launch p input polls hostMoves).mem = [] := rfl
@[simp] theorem State.launch_pc : (State.launch p input polls hostMoves).pc = p.pcStart := rfl
@[simp] theorem State.launch_cond : (State.launch p input polls hostMoves).cond = 0b000#3 := rfl
@[simp] theorem State.launch_regs : (State.launch p input polls hostMoves).regs = Regs.zero := rfl
@[simp] theorem State.launch_ir : (State.launch p input polls hostMoves).ir = 0x0000#16 := rfl
@[simp] theorem State.launch_run : (State.launch p input polls hostMoves).run = .running := rfl
@[simp] theorem State.launch_input : (State.launch p input polls hostMoves).input = input := rfl
@[simp] theorem State.launch_out : (State.launch p input polls hostMoves).out = [] := rfl
@[simp] theorem State.launch_polls : (State.launch p input polls hostMoves).polls = polls := rfl
@[simp] theorem State.launch_pollCount : (State.launch p input polls hostMoves).pollCount = 0 := rfl
@[simp] theorem State.launch_hostMoves : (State.launch p input polls hostMoves).hostMoves = hostMoves := rfl
@[simp] theorem State.launch_params : (State.launch p input polls hostMoves).params = p := rfl

end Launch

end Sys2Proof.Machine
end

