-- ==== Sys2Proof/Laws/Memory.lean ====
section
/-! SUPPORT. The laws of memory and of the register file: read after write, and the canonical form. -/

namespace Sys2Proof.Machine

/-! Registers -/

/-- Read after write of the register file (10_state.md R21: no two registers alias). -/
@[simp] theorem Regs.read_write (f : Regs) (i j : Reg) (v : Word) :
    (f.write i v).read j = if j = i then v else f.read j := by
  cases i <;> cases j <;> rfl

theorem Regs.ext_read {f g : Regs} (h : ∀ i, f.read i = g.read i) : f = g := by
  cases f; cases g
  have h0 := h .r0; have h1 := h .r1; have h2 := h .r2; have h3 := h .r3
  have h4 := h .r4; have h5 := h .r5; have h6 := h .r6; have h7 := h .r7
  simp only [Regs.read] at *
  simp [*]

@[simp] theorem Regs.read_zero (i : Reg) : Regs.zero.read i = 0x0000#16 := by cases i <;> rfl

/-! Lookup and insert -/

theorem Memory.lookup_of_all_lt {m : Memory} {a : Nat} (h : m.all (fun c => decide (a < c.1)) = true) :
    Memory.lookup m a = 0x0000#16 := by
  induction m with
  | nil => rfl
  | cons c m ih =>
    simp only [List.all_cons, Bool.and_eq_true, decide_eq_true_eq] at h
    simp only [Memory.lookup]
    rw [if_neg (by omega), ih h.2]

/-- The parts of the canonical form of a nonempty list. -/
theorem Memory.wf_cons {k : Nat} {u : Word} {m : Memory} : Memory.wf ((k, u) :: m) = true ↔
    k < 65536 ∧ u ≠ 0x0000#16 ∧ m.all (fun c => decide (k < c.1)) = true ∧ Memory.wf m = true := by
  simp [Memory.wf]

theorem Memory.all_lt_mono {m : Memory} {a b : Nat} (hab : a ≤ b)
    (h : m.all (fun c => decide (b < c.1)) = true) : m.all (fun c => decide (a < c.1)) = true := by
  simp only [List.all_eq_true, decide_eq_true_eq] at *
  intro c hc
  have := h c hc
  omega

theorem Memory.lookup_insert_same {m : Memory} (hm : Memory.wf m = true) (a : Nat) (v : Word) :
    Memory.lookup (Memory.insert m a v) a = v := by
  induction m with
  | nil =>
    simp only [Memory.insert]
    split
    · simp [Memory.lookup, *]
    · simp [Memory.lookup]
  | cons c m ih =>
    obtain ⟨k, u⟩ := c
    obtain ⟨_, _, hall, hwf⟩ := Memory.wf_cons.1 hm
    simp only [Memory.insert]
    split
    · rename_i hlt
      split
      · rename_i hv
        subst hv
        exact Memory.lookup_of_all_lt (by simp [hlt, Memory.all_lt_mono (Nat.le_of_lt hlt) hall])
      · simp [Memory.lookup]
    · split
      · rename_i heq
        subst heq
        split
        · rename_i hv
          subst hv
          exact Memory.lookup_of_all_lt hall
        · simp [Memory.lookup]
      · rename_i hlt hne
        simp only [Memory.lookup]
        rw [if_neg (by omega), ih hwf]

theorem Memory.lookup_insert_other (m : Memory) {a b : Nat} (h : b ≠ a) (v : Word) :
    Memory.lookup (Memory.insert m a v) b = Memory.lookup m b := by
  induction m with
  | nil =>
    simp only [Memory.insert]
    split
    · rfl
    · simp only [Memory.lookup]; rw [if_neg (Ne.symm h)]
  | cons c m ih =>
    obtain ⟨k, u⟩ := c
    simp only [Memory.insert]
    split
    · split
      · rfl
      · simp only [Memory.lookup]; rw [if_neg (Ne.symm h)]
    · split
      · rename_i heq
        subst heq
        split
        · simp only [Memory.lookup]; rw [if_neg (Ne.symm h)]
        · simp only [Memory.lookup]; rw [if_neg (Ne.symm h), if_neg (Ne.symm h)]
      · simp only [Memory.lookup, ih]

theorem Memory.all_insert {m : Memory} {lo a : Nat} (ha : lo < a) (v : Word)
    (h : m.all (fun c => decide (lo < c.1)) = true) :
    (Memory.insert m a v).all (fun c => decide (lo < c.1)) = true := by
  induction m with
  | nil => simp only [Memory.insert]; split <;> simp [ha]
  | cons c m ih =>
    obtain ⟨k, u⟩ := c
    obtain ⟨hk, hall⟩ : lo < k ∧ m.all (fun c => decide (lo < c.1)) = true := by simpa using h
    simp only [Memory.insert]
    split_ifs
    · exact h
    · simpa [ha] using h
    · exact hall
    · simpa [ha] using hall
    · simpa [hk] using ih hall

theorem Memory.wf_insert {m : Memory} (hm : Memory.wf m = true) {a : Nat} (ha : a < 65536) (v : Word) :
    Memory.wf (Memory.insert m a v) = true := by
  induction m with
  | nil =>
    simp only [Memory.insert]
    split_ifs with hv
    · rfl
    · simp [Memory.wf, ha, hv]
  | cons c m ih =>
    obtain ⟨k, u⟩ := c
    have hm' := hm
    obtain ⟨hk, hu, hall, hwf⟩ := Memory.wf_cons.1 hm
    simp only [Memory.insert]
    split_ifs with hlt hv heq hv
    · exact hm'
    · refine Memory.wf_cons.2 ⟨ha, hv, ?_, hm'⟩
      simp [hlt, Memory.all_lt_mono (Nat.le_of_lt hlt) hall]
    · exact hwf
    · subst heq; exact Memory.wf_cons.2 ⟨ha, hv, hall, hwf⟩
    · exact Memory.wf_cons.2 ⟨hk, hu, Memory.all_insert (by omega) v hall, ih hwf⟩

/-! Reads and writes of cells -/

@[simp] theorem Memory.read_nil (a : Word) : Memory.read [] a = 0x0000#16 := rfl

/-- A write is read back (20_memory.md R42). -/
@[simp] theorem Memory.read_write_same {m : Memory} (hm : m.wf = true) (a v : Word) :
    (m.write a v).read a = v := Memory.lookup_insert_same hm _ _

/-- A write leaves every other cell alone (20_memory.md R42). -/
theorem Memory.read_write_other (m : Memory) {a b : Word} (h : b ≠ a) (v : Word) :
    (m.write a v).read b = m.read b :=
  Memory.lookup_insert_other m (fun e => h (BitVec.eq_of_toNat_eq e)) v

/-- Read after write at any pair of addresses. -/
theorem Memory.read_write {m : Memory} (hm : m.wf = true) (a b v : Word) :
    (m.write a v).read b = if b = a then v else m.read b := by
  split
  · rename_i h; subst h; exact Memory.read_write_same hm _ _
  · rename_i h; exact Memory.read_write_other m h v

/-- A write keeps the canonical form. -/
@[simp] theorem Memory.wf_write {m : Memory} (hm : m.wf = true) (a v : Word) : (m.write a v).wf = true :=
  Memory.wf_insert hm a.isLt v

@[simp] theorem Memory.wf_nil : Memory.wf [] = true := rfl

end Sys2Proof.Machine
end

