-- ==== Sys2Proof/Laws/Ops.lean ====
section
/-! SUPPORT. What each shared operation can do, said once; later proofs cite these and unfold nothing. -/

namespace Sys2Proof.Machine

variable (s : State)

/-! Registers of an updated state -/

@[simp] theorem State.reg_setReg (i j : Reg) (v : Word) :
    (s.setReg i v).reg j = if j = i then v else s.reg j := Regs.read_write _ _ _ _
@[simp] theorem State.reg_setPc (t : Word) (j : Reg) : (s.setPc t).reg j = s.reg j := rfl
@[simp] theorem State.reg_emit (bs : List Byte) (j : Reg) : (s.emit bs).reg j = s.reg j := rfl
@[simp] theorem State.reg_memWrite (a v : Word) (j : Reg) : (s.memWrite a v).reg j = s.reg j := rfl
@[simp] theorem State.reg_raiseFatal (c : FatalCause) (j : Reg) : (s.raiseFatal c).reg j = s.reg j := rfl
@[simp] theorem State.reg_halt (j : Reg) : s.halt.reg j = s.reg j := rfl
@[simp] theorem State.reg_abort (j : Reg) : s.abort.reg j = s.reg j := rfl
@[simp] theorem State.reg_supply (b : Byte) (j : Reg) : (s.supply b).reg j = s.reg j := rfl
@[simp] theorem State.reg_setCC (i j : Reg) : (s.setCC i).reg j = s.reg j := rfl
@[simp] theorem State.reg_link (j : Reg) : s.link.reg j = if j = .r7 then s.pc else s.reg j :=
  Regs.read_write _ _ _ _

/-! The flag-updating write (10_state.md R27, R28) -/

@[simp] theorem State.reg_setResult (dr j : Reg) (v : Word) :
    (s.setResult dr v).reg j = if j = dr then v else s.reg j := Regs.read_write _ _ _ _
@[simp] theorem State.setResult_cond (dr : Reg) (v : Word) : (s.setResult dr v).cond = flagsOf v := by
  simp [State.setResult]

/-- The Condition-Flag Updater sets exactly one flag (R27). -/
theorem flagsOf_cases (v : Word) :
    (v = 0x0000#16 ∧ flagsOf v = flagZero) ∨ (v ≠ 0x0000#16 ∧ v.getLsbD 15 = true ∧ flagsOf v = flagNeg) ∨
      (v ≠ 0x0000#16 ∧ v.getLsbD 15 = false ∧ flagsOf v = flagPos) := by
  by_cases h0 : v = 0x0000#16
  · exact .inl ⟨h0, by simp [flagsOf, h0]⟩
  · by_cases h : v.getLsbD 15 = true
    · exact .inr (.inl ⟨h0, h, by simp only [flagsOf, if_neg h0, if_pos h]⟩)
    · exact .inr (.inr ⟨h0, by simpa using h, by simp only [flagsOf, if_neg h0, if_neg h]⟩)

theorem State.condLegal_of_flagsOf {t : State} {v : Word} (h : t.cond = flagsOf v) : t.condLegal := by
  unfold State.condLegal
  rcases flagsOf_cases v with ⟨_, e⟩ | ⟨_, _, e⟩ | ⟨_, _, e⟩ <;> rw [h, e] <;> simp

/-! The poll and the Memory Unit's read (20_memory.md R43, R44) -/

/-- What a poll can do: nothing arrived, or the first input byte is consumed (R44, R45). -/
theorem State.pollKeyboard_cases :
    (s.polledByte = none ∧ s.pollKeyboard = s.drawn.memWrite s.params.kbsrAddr 0x0000#16) ∨
      ∃ b rest, s.input = b :: rest ∧ s.draw = true ∧ s.polledByte = some b ∧
        s.pollKeyboard = ({ s.drawn with input := rest }.memWrite s.params.kbsrAddr s.params.kbsrReady).memWrite
          s.params.kbdrAddr (zext b) := by
  unfold State.pollKeyboard State.polledByte
  cases hi : s.input with
  | nil => left; simp
  | cons b rest =>
    cases hd : s.draw with
    | false => left; simp
    | true => right; exact ⟨b, rest, by simp⟩

theorem State.afterRead_of_ne {a : Word} (h : a ≠ s.params.kbsrAddr) : s.afterRead a = s := if_neg h

theorem State.afterRead_of_eq {a : Word} (h : a = s.params.kbsrAddr) : s.afterRead a = s.pollKeyboard := if_pos h

theorem State.afterRead_kbsr : s.afterRead s.params.kbsrAddr = s.pollKeyboard := s.afterRead_of_eq rfl

@[simp] theorem State.memRead_fst (a : Word) : (s.memRead a).1 = (s.afterRead a).mem.read a := rfl
@[simp] theorem State.memRead_snd (a : Word) : (s.memRead a).2 = s.afterRead a := rfl

@[simp] theorem State.pollKeyboard_pc : s.pollKeyboard.pc = s.pc := by
  unfold State.pollKeyboard; split <;> rfl
@[simp] theorem State.pollKeyboard_cond : s.pollKeyboard.cond = s.cond := by
  unfold State.pollKeyboard; split <;> rfl
@[simp] theorem State.pollKeyboard_regs : s.pollKeyboard.regs = s.regs := by
  unfold State.pollKeyboard; split <;> rfl
@[simp] theorem State.pollKeyboard_ir : s.pollKeyboard.ir = s.ir := by
  unfold State.pollKeyboard; split <;> rfl
@[simp] theorem State.pollKeyboard_run : s.pollKeyboard.run = s.run := by
  unfold State.pollKeyboard; split <;> rfl
@[simp] theorem State.pollKeyboard_out : s.pollKeyboard.out = s.out := by
  unfold State.pollKeyboard; split <;> rfl
@[simp] theorem State.pollKeyboard_hostMoves : s.pollKeyboard.hostMoves = s.hostMoves := by
  unfold State.pollKeyboard; split <;> rfl
@[simp] theorem State.pollKeyboard_params : s.pollKeyboard.params = s.params := by
  unfold State.pollKeyboard; split <;> rfl
@[simp] theorem State.reg_pollKeyboard (j : Reg) : s.pollKeyboard.reg j = s.reg j := by
  simp [State.reg]
@[simp] theorem State.afterRead_pc (a : Word) : (s.afterRead a).pc = s.pc := by
  unfold State.afterRead; split <;> simp
@[simp] theorem State.afterRead_cond (a : Word) : (s.afterRead a).cond = s.cond := by
  unfold State.afterRead; split <;> simp
@[simp] theorem State.afterRead_regs (a : Word) : (s.afterRead a).regs = s.regs := by
  unfold State.afterRead; split <;> simp
@[simp] theorem State.afterRead_ir (a : Word) : (s.afterRead a).ir = s.ir := by
  unfold State.afterRead; split <;> simp
@[simp] theorem State.afterRead_run (a : Word) : (s.afterRead a).run = s.run := by
  unfold State.afterRead; split <;> simp
@[simp] theorem State.afterRead_out (a : Word) : (s.afterRead a).out = s.out := by
  unfold State.afterRead; split <;> simp
@[simp] theorem State.afterRead_hostMoves (a : Word) : (s.afterRead a).hostMoves = s.hostMoves := by
  unfold State.afterRead; split <;> simp
@[simp] theorem State.afterRead_params (a : Word) : (s.afterRead a).params = s.params := by
  unfold State.afterRead; split <;> simp
@[simp] theorem State.reg_afterRead (a : Word) (j : Reg) : (s.afterRead a).reg j = s.reg j := by
  simp [State.reg]

/-- The Memory Unit's read keeps memory in canonical form. -/
@[simp] theorem State.afterRead_mem_wf (h : s.mem.wf = true) (a : Word) : (s.afterRead a).mem.wf = true := by
  unfold State.afterRead
  split
  · rcases s.pollKeyboard_cases with ⟨_, e⟩ | ⟨b, rest, _, _, _, e⟩ <;> rw [e] <;> simp [h]
  · exact h

/-- A read changes no cell but the two device cells (R44). -/
theorem State.afterRead_mem_other (a : Word) {c : Word} (hs : c ≠ s.params.kbsrAddr)
    (hd : c ≠ s.params.kbdrAddr) : (s.afterRead a).mem.read c = s.mem.read c := by
  unfold State.afterRead
  split
  · rcases s.pollKeyboard_cases with ⟨_, e⟩ | ⟨b, rest, _, _, _, e⟩ <;> rw [e] <;>
      simp [Memory.read_write_other _ hs, Memory.read_write_other _ hd]
  · rfl

/-- A read consumes at most the first input byte (R44). -/
theorem State.afterRead_input_suffix (a : Word) : (s.afterRead a).input <:+ s.input := by
  unfold State.afterRead
  split
  · rcases s.pollKeyboard_cases with ⟨_, e⟩ | ⟨b, rest, hi, _, _, e⟩ <;> rw [e]
    · exact List.suffix_refl _
    · rw [hi]; exact List.suffix_cons b rest
  · exact List.suffix_refl _

/-! The trap helpers (45_trap.md R130, R139) -/

@[simp] theorem State.trapLink_mem : s.trapLink.mem = s.mem := by
  unfold State.trapLink; split <;> rfl
@[simp] theorem State.trapLink_pc : s.trapLink.pc = s.pc := by
  unfold State.trapLink; split <;> rfl
@[simp] theorem State.trapLink_cond : s.trapLink.cond = s.cond := by
  unfold State.trapLink; split <;> rfl
@[simp] theorem State.trapLink_ir : s.trapLink.ir = s.ir := by
  unfold State.trapLink; split <;> rfl
@[simp] theorem State.trapLink_run : s.trapLink.run = s.run := by
  unfold State.trapLink; split <;> rfl
@[simp] theorem State.trapLink_input : s.trapLink.input = s.input := by
  unfold State.trapLink; split <;> rfl
@[simp] theorem State.trapLink_out : s.trapLink.out = s.out := by
  unfold State.trapLink; split <;> rfl
@[simp] theorem State.trapLink_polls : s.trapLink.polls = s.polls := by
  unfold State.trapLink; split <;> rfl
@[simp] theorem State.trapLink_pollCount : s.trapLink.pollCount = s.pollCount := by
  unfold State.trapLink; split <;> rfl
@[simp] theorem State.trapLink_hostMoves : s.trapLink.hostMoves = s.hostMoves := by
  unfold State.trapLink; split <;> rfl
@[simp] theorem State.trapLink_params : s.trapLink.params = s.params := by
  unfold State.trapLink; split <;> rfl
theorem State.reg_trapLink (j : Reg) :
    s.trapLink.reg j = if s.params.trapLinksR7 = true ∧ j = .r7 then s.pc else s.reg j := by
  unfold State.trapLink; split <;> simp [*]
@[simp] theorem State.trapFlags_mem : s.trapFlags.mem = s.mem := by
  unfold State.trapFlags; split <;> rfl
@[simp] theorem State.trapFlags_pc : s.trapFlags.pc = s.pc := by
  unfold State.trapFlags; split <;> rfl
@[simp] theorem State.trapFlags_regs : s.trapFlags.regs = s.regs := by
  unfold State.trapFlags; split <;> rfl
@[simp] theorem State.trapFlags_ir : s.trapFlags.ir = s.ir := by
  unfold State.trapFlags; split <;> rfl
@[simp] theorem State.trapFlags_run : s.trapFlags.run = s.run := by
  unfold State.trapFlags; split <;> rfl
@[simp] theorem State.trapFlags_input : s.trapFlags.input = s.input := by
  unfold State.trapFlags; split <;> rfl
@[simp] theorem State.trapFlags_out : s.trapFlags.out = s.out := by
  unfold State.trapFlags; split <;> rfl
@[simp] theorem State.trapFlags_polls : s.trapFlags.polls = s.polls := by
  unfold State.trapFlags; split <;> rfl
@[simp] theorem State.trapFlags_pollCount : s.trapFlags.pollCount = s.pollCount := by
  unfold State.trapFlags; split <;> rfl
@[simp] theorem State.trapFlags_hostMoves : s.trapFlags.hostMoves = s.hostMoves := by
  unfold State.trapFlags; split <;> rfl
@[simp] theorem State.trapFlags_params : s.trapFlags.params = s.params := by
  unfold State.trapFlags; split <;> rfl
@[simp] theorem State.reg_trapFlags (j : Reg) : s.trapFlags.reg j = s.reg j := by simp [State.reg]
theorem State.trapFlags_cond :
    s.trapFlags.cond = if s.params.trapInputSetsFlags = true then flagsOf (s.reg .r0) else s.cond := by
  unfold State.trapFlags; split <;> simp [*]
@[simp] theorem State.acceptByte_mem (b : Byte) : (s.acceptByte b).mem = s.mem := by
  simp [State.acceptByte]
@[simp] theorem State.acceptByte_pc (b : Byte) : (s.acceptByte b).pc = s.pc := by
  simp [State.acceptByte]
@[simp] theorem State.acceptByte_ir (b : Byte) : (s.acceptByte b).ir = s.ir := by
  simp [State.acceptByte]
@[simp] theorem State.acceptByte_run (b : Byte) : (s.acceptByte b).run = s.run := by
  simp [State.acceptByte]
@[simp] theorem State.acceptByte_input (b : Byte) : (s.acceptByte b).input = s.input := by
  simp [State.acceptByte]
@[simp] theorem State.acceptByte_out (b : Byte) : (s.acceptByte b).out = s.out := by
  simp [State.acceptByte]
@[simp] theorem State.acceptByte_polls (b : Byte) : (s.acceptByte b).polls = s.polls := by
  simp [State.acceptByte]
@[simp] theorem State.acceptByte_pollCount (b : Byte) : (s.acceptByte b).pollCount = s.pollCount := by
  simp [State.acceptByte]
@[simp] theorem State.acceptByte_hostMoves (b : Byte) : (s.acceptByte b).hostMoves = s.hostMoves := by
  simp [State.acceptByte]
@[simp] theorem State.acceptByte_params (b : Byte) : (s.acceptByte b).params = s.params := by
  simp [State.acceptByte]
@[simp] theorem State.reg_acceptByte (b : Byte) (j : Reg) :
    (s.acceptByte b).reg j = if j = .r0 then zext b else s.reg j := by
  simp [State.acceptByte]
theorem State.acceptByte_cond (b : Byte) :
    (s.acceptByte b).cond = if s.params.trapInputSetsFlags = true then flagsOf (zext b) else s.cond := by
  simp [State.acceptByte, State.trapFlags_cond]

/-- GETC with no byte holds (40_dispatcher.md R87). -/
theorem serviceGetc_nil {s : State} (h : s.input = []) : serviceGetc s = .fault .inputHold := by
  simp [serviceGetc, State.readByte, h]

/-- GETC with a byte takes it (45_trap.md R131). -/
theorem serviceGetc_cons {s : State} {b : Byte} {rest : List Byte} (h : s.input = b :: rest) :
    serviceGetc s = .next ({ s with input := rest }.acceptByte b) := by
  simp [serviceGetc, State.readByte, h]

/-- IN with no byte holds (40_dispatcher.md R87). -/
theorem serviceIn_nil {s : State} (h : s.input = []) : serviceIn s = .fault .inputHold := by
  simp [serviceIn, State.readByte, h]

/-- IN with a byte prompts, takes it and echoes it (45_trap.md R134). -/
theorem serviceIn_cons {s : State} {b : Byte} {rest : List Byte} (h : s.input = b :: rest) :
    serviceIn s = .next ((({ s.emit s.params.inPrompt with input := rest }).emit [b]).acceptByte b) := by
  simp [serviceIn, State.readByte, h]

/-! Strings (R133, R135) -/

/-- A string service outputs bytes, and may end the run by StringWrap. -/
theorem State.putString_cases (bytes : Word → List Byte) :
    ((stringAt bytes s.mem (s.reg .r0)).2 = true ∧
        s.putString bytes = s.emit (stringAt bytes s.mem (s.reg .r0)).1) ∨
      ((stringAt bytes s.mem (s.reg .r0)).2 = false ∧
        s.putString bytes =
          (s.emit (stringAt bytes s.mem (s.reg .r0)).1).raiseFatal (.stringWrap (s.reg .r0))) := by
  unfold State.putString
  cases h : (stringAt bytes s.mem (s.reg .r0)).2 <;> simp

@[simp] theorem State.putString_mem (bytes : Word → List Byte) : (s.putString bytes).mem = s.mem := by
  unfold State.putString; split <;> rfl
@[simp] theorem State.putString_pc (bytes : Word → List Byte) : (s.putString bytes).pc = s.pc := by
  unfold State.putString; split <;> rfl
@[simp] theorem State.putString_cond (bytes : Word → List Byte) : (s.putString bytes).cond = s.cond := by
  unfold State.putString; split <;> rfl
@[simp] theorem State.putString_regs (bytes : Word → List Byte) : (s.putString bytes).regs = s.regs := by
  unfold State.putString; split <;> rfl
@[simp] theorem State.putString_ir (bytes : Word → List Byte) : (s.putString bytes).ir = s.ir := by
  unfold State.putString; split <;> rfl
@[simp] theorem State.putString_input (bytes : Word → List Byte) : (s.putString bytes).input = s.input := by
  unfold State.putString; split <;> rfl
@[simp] theorem State.putString_polls (bytes : Word → List Byte) : (s.putString bytes).polls = s.polls := by
  unfold State.putString; split <;> rfl
@[simp] theorem State.putString_pollCount (bytes : Word → List Byte) : (s.putString bytes).pollCount = s.pollCount := by
  unfold State.putString; split <;> rfl
@[simp] theorem State.putString_hostMoves (bytes : Word → List Byte) : (s.putString bytes).hostMoves = s.hostMoves := by
  unfold State.putString; split <;> rfl
@[simp] theorem State.putString_params (bytes : Word → List Byte) : (s.putString bytes).params = s.params := by
  unfold State.putString; split <;> rfl
theorem State.putString_out (bytes : Word → List Byte) :
    (s.putString bytes).out = s.out ++ (stringAt bytes s.mem (s.reg .r0)).1 := by
  unfold State.putString; split <;> rfl

/-- The next cell's offset. -/
theorem add_ofNat_succ (a : Word) (j : Nat) : a + BitVec.ofNat 16 (j + 1) = a + 1#16 + BitVec.ofNat 16 j := by
  rw [BitVec.add_assoc, Nat.add_comm, BitVec.ofNat_add]

/-- A scan over k nonzero cells and then a zero cell outputs the bytes of the k cells (R133, R135). -/
theorem scanString_of_zero (bytes : Word → List Byte) (m : Memory) (n k : Nat) (a : Word) (hk : k < n)
    (hne : ∀ j < k, m.read (a + BitVec.ofNat 16 j) ≠ 0x0000#16)
    (hz : m.read (a + BitVec.ofNat 16 k) = 0x0000#16) :
    scanString bytes m n a = ((List.range k).flatMap fun j => bytes (m.read (a + BitVec.ofNat 16 j)), true) := by
  induction n generalizing k a with
  | zero => omega
  | succ n ih =>
    cases k with
    | zero =>
      have h0 : m.read a = 0x0000#16 := by simpa using hz
      simp only [scanString, if_pos h0, List.range_zero, List.flatMap_nil]
    | succ k =>
      have h0 : m.read a ≠ 0x0000#16 := by simpa using hne 0 (by omega)
      have h1 := ih k (a + 1#16) (by omega) (fun j hj => by rw [← add_ofNat_succ]; exact hne _ (by omega))
        (by rw [← add_ofNat_succ]; exact hz)
      simp only [← add_ofNat_succ] at h1
      simp only [scanString, if_neg h0, h1, List.range_succ_eq_map, List.flatMap_cons, List.flatMap_map,
        Nat.succ_eq_add_one, BitVec.add_zero]

/-- A scan that meets no zero cell outputs the bytes of all its cells and reports it (R133, R135). -/
theorem scanString_of_nonzero (bytes : Word → List Byte) (m : Memory) (n : Nat) (a : Word)
    (hne : ∀ j < n, m.read (a + BitVec.ofNat 16 j) ≠ 0x0000#16) :
    scanString bytes m n a =
      ((List.range n).flatMap fun j => bytes (m.read (a + BitVec.ofNat 16 j)), false) := by
  induction n generalizing a with
  | zero => rfl
  | succ n ih =>
    have h0 : m.read a ≠ 0x0000#16 := by simpa using hne 0 (by omega)
    have h1 := ih (a + 1#16) (fun j hj => by rw [← add_ofNat_succ]; exact hne _ (by omega))
    simp only [← add_ofNat_succ] at h1
    simp only [scanString, if_neg h0, h1, List.range_succ_eq_map, List.flatMap_cons, List.flatMap_map,
      Nat.succ_eq_add_one, BitVec.add_zero]

/-! The hold (40_dispatcher.md R87) -/

@[simp] theorem holdAt_next (before t : State) : holdAt before (.next t) = .next t := rfl
@[simp] theorem holdAt_inputHold (before : State) : holdAt before (.fault .inputHold) = .next before := rfl

end Sys2Proof.Machine
end

