-- ==== Sys2Proof/Laws/PerInstr.lean ====
section
/-! SUPPORT. Facts about each instruction as syntax, one lemma per constructor. -/

namespace Sys2Proof.Laws.EncodingRow

/-- The word the encoder writes for a well-formed instruction belongs to the instruction's row of the opcode
table, and to its class row. -/
def Statement (i : Instr) : Prop :=
  i.wf = true → i.row.has (encode i) ∧ i.classRow.has (encode i)

theorem br n z p off9 : Statement (.br n z p off9) := by
  refine fun _ => and_self_iff.2 (eq_of_bits fun i hi => ?_)
  simp only [encode, Instr.row, rowBr, BitVec.getLsbD_and, getLsbD_word439]
  interval_cases i <;> simp
theorem addReg dr sr1 sr2 : Statement (.addReg dr sr1 sr2) := by
  refine fun _ => and_self_iff.2 (eq_of_bits fun i hi => ?_)
  simp only [encode, Instr.row, rowAddReg, BitVec.getLsbD_and, getLsbD_word4336, getLsbD_low33]
  interval_cases i <;> simp
theorem addImm dr sr1 imm : Statement (.addImm dr sr1 imm) := by
  refine fun _ => and_self_iff.2 (eq_of_bits fun i hi => ?_)
  simp only [encode, Instr.row, rowAddImm, BitVec.getLsbD_and, getLsbD_word4336, getLsbD_low15]
  interval_cases i <;> simp
theorem ld dr off9 : Statement (.ld dr off9) := by
  refine fun _ => and_self_iff.2 (eq_of_bits fun i hi => ?_)
  simp only [encode, Instr.row, rowLd, BitVec.getLsbD_and, getLsbD_word439]
  interval_cases i <;> simp
theorem st sr off9 : Statement (.st sr off9) := by
  refine fun _ => and_self_iff.2 (eq_of_bits fun i hi => ?_)
  simp only [encode, Instr.row, rowSt, BitVec.getLsbD_and, getLsbD_word439]
  interval_cases i <;> simp
theorem jsrr b : Statement (.jsrr b) := by
  refine fun _ => and_self_iff.2 (eq_of_bits fun i hi => ?_)
  simp only [encode, Instr.row, rowJsrr, BitVec.getLsbD_and, getLsbD_word4336]
  interval_cases i <;> simp
theorem jsr off11 : Statement (.jsr off11) := by
  refine fun _ => and_self_iff.2 (eq_of_bits fun i hi => ?_)
  simp only [encode, Instr.row, rowJsr, BitVec.getLsbD_and, getLsbD_word4111]
  interval_cases i <;> simp
theorem andReg dr sr1 sr2 : Statement (.andReg dr sr1 sr2) := by
  refine fun _ => and_self_iff.2 (eq_of_bits fun i hi => ?_)
  simp only [encode, Instr.row, rowAndReg, BitVec.getLsbD_and, getLsbD_word4336, getLsbD_low33]
  interval_cases i <;> simp
theorem andImm dr sr1 imm : Statement (.andImm dr sr1 imm) := by
  refine fun _ => and_self_iff.2 (eq_of_bits fun i hi => ?_)
  simp only [encode, Instr.row, rowAndImm, BitVec.getLsbD_and, getLsbD_word4336, getLsbD_low15]
  interval_cases i <;> simp
theorem ldr dr b off6 : Statement (.ldr dr b off6) := by
  refine fun _ => and_self_iff.2 (eq_of_bits fun i hi => ?_)
  simp only [encode, Instr.row, rowLdr, BitVec.getLsbD_and, getLsbD_word4336]
  interval_cases i <;> simp
theorem str sr b off6 : Statement (.str sr b off6) := by
  refine fun _ => and_self_iff.2 (eq_of_bits fun i hi => ?_)
  simp only [encode, Instr.row, rowStr, BitVec.getLsbD_and, getLsbD_word4336]
  interval_cases i <;> simp
theorem rsv8 : Statement (.rsv8) := by
  exact fun _ => by decide
theorem not dr sr : Statement (.not dr sr) := by
  refine fun _ => and_self_iff.2 (eq_of_bits fun i hi => ?_)
  simp only [encode, Instr.row, rowNot, BitVec.getLsbD_and, getLsbD_word4336]
  interval_cases i <;> simp
theorem ldi dr off9 : Statement (.ldi dr off9) := by
  refine fun _ => and_self_iff.2 (eq_of_bits fun i hi => ?_)
  simp only [encode, Instr.row, rowLdi, BitVec.getLsbD_and, getLsbD_word439]
  interval_cases i <;> simp
theorem sti sr off9 : Statement (.sti sr off9) := by
  refine fun _ => and_self_iff.2 (eq_of_bits fun i hi => ?_)
  simp only [encode, Instr.row, rowSti, BitVec.getLsbD_and, getLsbD_word439]
  interval_cases i <;> simp
theorem jmp b : Statement (.jmp b) := by
  refine fun _ => and_self_iff.2 (eq_of_bits fun i hi => ?_)
  simp only [encode, Instr.row, rowJmp, BitVec.getLsbD_and, getLsbD_word4336]
  interval_cases i <;> simp
theorem rsvD : Statement (.rsvD) := by
  exact fun _ => by decide
theorem lea dr off9 : Statement (.lea dr off9) := by
  refine fun _ => and_self_iff.2 (eq_of_bits fun i hi => ?_)
  simp only [encode, Instr.row, rowLea, BitVec.getLsbD_and, getLsbD_word439]
  interval_cases i <;> simp
theorem trapGetc : Statement (.trapGetc) := by
  exact fun _ => by decide
theorem trapOut : Statement (.trapOut) := by
  exact fun _ => by decide
theorem trapPuts : Statement (.trapPuts) := by
  exact fun _ => by decide
theorem trapIn : Statement (.trapIn) := by
  exact fun _ => by decide
theorem trapPutsp : Statement (.trapPutsp) := by
  exact fun _ => by decide
theorem trapHalt : Statement (.trapHalt) := by
  exact fun _ => by decide
theorem trap v : Statement (.trap v) := by
  refine fun _ => and_self_iff.2 (eq_of_bits fun i hi => ?_)
  simp only [encode, encodeTrap, Instr.row, rowTrap, BitVec.getLsbD_and, getLsbD_word448]
  interval_cases i <;> simp

end Sys2Proof.Laws.EncodingRow
end

