-- ==== Sys2Proof/Laws/Step.lean ====
section
/-! SUPPORT. What a service, a cycle and a step can do, said once; invariants are derived from these. -/

namespace Sys2Proof.Machine

/-- GETC answers a next state only by taking the first input byte. -/
theorem serviceGetc_next {s t : State} (h : serviceGetc s = .next t) :
    ∃ b rest, s.input = b :: rest ∧ t = { s with input := rest }.acceptByte b := by
  cases hi : s.input with
  | nil => rw [serviceGetc_nil hi] at h; cases h
  | cons b rest => rw [serviceGetc_cons hi] at h; cases h; exact ⟨b, rest, rfl, rfl⟩

/-- IN answers a next state only by taking the first input byte. -/
theorem serviceIn_next {s t : State} (h : serviceIn s = .next t) :
    ∃ b rest, s.input = b :: rest ∧
      t = (({ s.emit s.params.inPrompt with input := rest }).emit [b]).acceptByte b := by
  cases hi : s.input with
  | nil => rw [serviceIn_nil hi] at h; cases h
  | cons b rest => rw [serviceIn_cons hi] at h; cases h; exact ⟨b, rest, rfl, rfl⟩

/-- A well-formed general TRAP has no service. -/
theorem ofVector_of_wf {v : Byte} (h : (Instr.trap v).wf = true) : Service.ofVector v = none := by
  simpa [Instr.wf] using h

/-- The general TRAP row, well-formed, is the unknown-vector case (45_trap.md R137). -/
theorem execTrap_of_wf {v : Byte} (h : (Instr.trap v).wf = true) (s : State) :
    execTrap v s = unknownVector v s := by
  simp only [execTrap, ofVector_of_wf h]

/-- A hold answers the state before the cycle; every other outcome is exec's. -/
theorem holdAt_eq_next {before t : State} {o : Host.Outcome State Fault Refusal} :
    holdAt before o = .next t ↔ o = .next t ∨ (o = .fault .inputHold ∧ t = before) := by
  rcases o with u | r | r
  · simp [holdAt]
  · cases r <;> simp [holdAt, eq_comm]
  · simp [holdAt]

/-- The state before a cycle is one state. -/
theorem BeforeCycle.unique {s b c : State} (hb : BeforeCycle s b) (hc : BeforeCycle s c) : b = c := by
  rcases hb with ⟨e, rfl⟩ | ⟨r, e, rfl⟩ <;> rcases hc with ⟨f, rfl⟩ | ⟨q, f, rfl⟩
  · rfl
  · cases e.symm.trans f
  · cases e.symm.trans f
  · cases e.symm.trans f; rfl

/-- Before a cycle the host supplies no byte. -/
theorem BeforeCycle.ne_supply {s b : State} (hb : BeforeCycle s b) (x : Byte) (rest : List HostMove) :
    s.hostMoves ≠ .supply x :: rest := by
  rcases hb with ⟨e, _⟩ | ⟨r, e, _⟩ <;> exact fun h => by cases e.symm.trans h

/-- Before a cycle the host requests no termination. -/
theorem BeforeCycle.ne_terminate {s b : State} (hb : BeforeCycle s b) (rest : List HostMove) :
    s.hostMoves ≠ .terminate :: rest := by
  rcases hb with ⟨e, _⟩ | ⟨r, e, _⟩ <;> exact fun h => by cases e.symm.trans h

/-- The host's idle move changes only its own list. -/
theorem BeforeCycle.eq_update {s b : State} (hb : BeforeCycle s b) : b = { s with hostMoves := b.hostMoves } := by
  rcases hb with ⟨_, rfl⟩ | ⟨_, _, rfl⟩ <;> rfl

/-- A read does not depend on the host's coming moves. -/
theorem memRead_fst_hostMoves (s : State) (moves : List HostMove) (a : Word) :
    ({ s with hostMoves := moves }.memRead a).1 = (s.memRead a).1 := by
  have hb : State.polledByte { s with hostMoves := moves } = s.polledByte := rfl
  have hp : State.pollKeyboard { s with hostMoves := moves } = { s.pollKeyboard with hostMoves := moves } := by
    unfold State.pollKeyboard
    rw [hb]
    cases s.polledByte <;> rfl
  simp only [State.memRead, State.afterRead]
  split
  · rw [hp]
  · rfl

/-- Everything a step can do: run the decoded instruction, hold, take a byte or the termination request from the
host (40_dispatcher.md R80, R87; 60_exceptions.md R154). -/
theorem step_cases {s t : State} (h : step s = .next t) : s.run = .running ∧
    ((∃ b, BeforeCycle s b ∧ (exec (decode b.fetch.1) b.fetch.2 = .next t ∨
        (exec (decode b.fetch.1) b.fetch.2 = .fault .inputHold ∧ t = b))) ∨
      (∃ x rest, s.hostMoves = .supply x :: rest ∧ t = { s with hostMoves := rest, input := s.input ++ [x] }) ∨
      ∃ rest, s.hostMoves = .terminate :: rest ∧ t = { s with hostMoves := rest, run := .aborted }) := by
  unfold step at h
  split at h
  · rename_i hr
    refine ⟨hr, ?_⟩
    unfold advance at h
    split at h
    · rename_i hm
      exact .inl ⟨s, .inl ⟨hm, rfl⟩, holdAt_eq_next.1 h⟩
    · rename_i rest hm
      exact .inl ⟨_, .inr ⟨rest, hm, rfl⟩, holdAt_eq_next.1 h⟩
    · rename_i x rest hm
      cases h
      exact .inr (.inl ⟨x, rest, hm, rfl⟩)
    · rename_i rest hm
      cases h
      exact .inr (.inr ⟨rest, hm, rfl⟩)
  · cases h

/-- A step of a running machine before a cycle is that cycle. -/
theorem step_eq_cycle {s b : State} (hr : s.run = .running) (hb : BeforeCycle s b) : step s = cycle b := by
  rcases hb with ⟨hm, rfl⟩ | ⟨rest, hm, rfl⟩ <;> simp [step, hr, advance, hm]

end Sys2Proof.Machine
end

