-- ==== Sys2Proof/Tests/Slice0.lean ====
section
/-! SUPPORT. The model's own tests: expected results are the spec's vectors (95_test_vectors.md) and the examples
of its rules. Then a witness for every statement that has hypotheses. -/

namespace Sys2Proof.Tests
open Sys2Proof.Machine Sys2Proof.Spec

/-! Small states -/

/-- Parameters with written-out texts: the defaults of R6, and texts of one byte after "HALT". -/
def params : Params :=
  { defaultParams with
    haltNotice := haltWord ++ [0x0A#8], inPrompt := [0x3E#8], unknownTrapDiagnostic := [0x21#8] }

/-- The state after reset with these parameters and an input stream. -/
def start (input : List Byte) : State := State.launch params input [] []

/-- A state with R1, R2 and COND set, before the instruction at pc. -/
def ready (pc r1 r2 : Word) (cond : BitVec 3) : State :=
  { ((start []).setReg .r1 r1).setReg .r2 r2 with pc := pc, cond := cond }

/-- One step on a word placed at PC, and a question about the next state. -/
def after (s : State) (w : Nat) (p : State → Bool) : Bool :=
  match step (s.withFetchWord 16 w) with
  | .next t => p t
  | _ => false

/-! Well-formedness: the one check, and a term that it refuses -/

theorem test_wf_refuses_vector_with_its_own_row : (Instr.trap 0x25#8).wf = false := by decide
theorem test_wf_accepts_other_vector : (Instr.trap 0x26#8).wf = true := by decide

/-! Decoding, one word for each constructor, written out bit by bit from R63 -/

theorem test_decode_br : decode 0b0000010000000011#16 = .br false true false 3#9 := by decide
theorem test_decode_addReg : decode 0b0001000001011010#16 = .addReg .r0 .r1 .r2 := by decide
theorem test_decode_addImm : decode 0b0001000000111111#16 = .addImm .r0 .r0 0b11111#5 := by decide
theorem test_decode_ld : decode 0b0010010000000011#16 = .ld .r2 3#9 := by decide
theorem test_decode_st : decode 0b0011001000000001#16 = .st .r1 1#9 := by decide
theorem test_decode_jsrr : decode 0b0100000011000000#16 = .jsrr .r3 := by decide
theorem test_decode_jsr : decode 0b0100101111111111#16 = .jsr 0b01111111111#11 := by decide
theorem test_decode_andReg : decode 0b0101000001000010#16 = .andReg .r0 .r1 .r2 := by decide
theorem test_decode_andImm : decode 0b0101000001110000#16 = .andImm .r0 .r1 0b10000#5 := by decide
theorem test_decode_ldr : decode 0b0110011001000001#16 = .ldr .r3 .r1 1#6 := by decide
theorem test_decode_str : decode 0b0111010001000010#16 = .str .r2 .r1 2#6 := by decide
theorem test_decode_rsv8 : decode 0b1000000000000000#16 = .rsv8 := by decide
theorem test_decode_not : decode 0b1001011011000000#16 = .not .r3 .r3 := by decide
theorem test_decode_ldi : decode 0b1010100000000001#16 = .ldi .r4 1#9 := by decide
theorem test_decode_sti : decode 0b1011010000000010#16 = .sti .r2 2#9 := by decide
theorem test_decode_jmp : decode 0b1100111010111111#16 = .jmp .r2 := by decide
theorem test_decode_rsvD : decode 0b1101111111111111#16 = .rsvD := by decide
theorem test_decode_lea : decode 0b1110000000000010#16 = .lea .r0 2#9 := by decide
theorem test_decode_trapGetc : decode 0b1111000000100000#16 = .trapGetc := by decide
theorem test_decode_trapOut : decode 0b1111000000100001#16 = .trapOut := by decide
theorem test_decode_trapPuts : decode 0b1111000100100010#16 = .trapPuts := by decide
theorem test_decode_trapIn : decode 0b1111000000100011#16 = .trapIn := by decide
theorem test_decode_trapPutsp : decode 0b1111000000100100#16 = .trapPutsp := by decide
theorem test_decode_trapHalt : decode 0b1111111100100101#16 = .trapHalt := by decide
theorem test_decode_trap : decode 0b1111000000100110#16 = .trap 0x26#8 := by decide

/-! One step for each instruction (95_test_vectors.md, section 2) -/

/-- Section 2.3: 0x1042 wraps to zero. -/
theorem test_addReg_wraps : after (ready 0x3000 0xFFFF 0x0001 0b000) 0x1042
    (fun t => t.reg .r0 == 0#16 && t.cond == 0b010#3 && t.pc == 0x3001#16) = true := by decide

/-- Section 2.3: 0x1241 doubles R1 into the sign bit. -/
theorem test_addReg_same_register : after (ready 0x3000 0x4000 0 0b000) 0x1241
    (fun t => t.reg .r1 == 0x8000#16 && t.cond == 0b100#3) = true := by decide

/-- Section 2.3: 0x103F adds -1 to zero. -/
theorem test_addImm_minus_one : after (ready 0x3000 0 0 0b000) 0x103F
    (fun t => t.reg .r0 == 0xFFFF#16 && t.cond == 0b100#3) = true := by decide

/-- Section 2.9: at 0xFFFF the fetch increment wraps. -/
theorem test_addImm_at_the_top : after { ready 0xFFFF 0 0 0b000 with regs := Regs.zero.write .r0 1 } 0x1021
    (fun t => t.reg .r0 == 2#16 && t.cond == 0b001#3 && t.pc == 0#16) = true := by decide

/-- Section 2.3: 0x5042. -/
theorem test_andReg : after (ready 0x3000 0xF0F0 0x0FF0 0b000) 0x5042
    (fun t => t.reg .r0 == 0x00F0#16 && t.cond == 0b001#3) = true := by decide

/-- Section 2.3: 0x5070 keeps the high bits. -/
theorem test_andImm_negative : after (ready 0x3000 0x1234 0 0b000) 0x5070
    (fun t => t.reg .r0 == 0x1230#16 && t.cond == 0b001#3) = true := by decide

/-- Section 2.3: 0x9000, bits 5:0 zero, on 0x8000 (here R1: 0x9040). -/
theorem test_not : after (ready 0x3000 0x8000 0 0b000) 0x9040
    (fun t => t.reg .r0 == 0x7FFF#16 && t.cond == 0b001#3) = true := by decide

/-- Section 2.4: 0x0201 at 0xFFFF is taken and wraps. -/
theorem test_br_wraps : after (ready 0xFFFF 0 0 0b001) 0x0201
    (fun t => t.pc == 0x0001#16 && t.cond == 0b001#3) = true := by decide

/-- Section 2.4: 0x0E01 is not taken at reset. -/
theorem test_br_not_taken_at_reset : after (start []) 0x0E01 (fun t => t.pc == 0x3001#16) = true := by decide

/-- Section 2.4: 0xCEBF with ignored bits set. -/
theorem test_jmp : after (ready 0x3000 0 0x1234 0b010) 0xCEBF
    (fun t => t.pc == 0x1234#16 && t.cond == 0b010#3) = true := by decide

/-- Section 2.4: 0x4BFF at 0xFC00 wraps. -/
theorem test_jsr_wraps : after (ready 0xFC00 0 0 0b000) 0x4BFF
    (fun t => t.reg .r7 == 0xFC01#16 && t.pc == 0#16) = true := by decide

/-- Section 2.4: 0x41C0 with R7 = 0x3004 continues at the next instruction. -/
theorem test_jsrr_r7 : after { start [] with pc := 0x3001, regs := Regs.zero.write .r7 0x3004 } 0x41C0
    (fun t => t.reg .r7 == 0x3002#16 && t.pc == 0x3002#16) = true := by decide

/-- Section 2.9: 0x8000 changes PC and IR only. -/
theorem test_rsv8 : after (ready 0x3000 1 2 0b001) 0x8000 (fun t =>
    t == { (ready 0x3000 1 2 0b001).withFetchWord 16 0x8000 with pc := 0x3001, ir := 0x8000 }) = true := by decide

/-- Section 2.9: 0xDFFF changes PC and IR only. -/
theorem test_rsvD : after (ready 0x4000 1 2 0b001) 0xDFFF (fun t =>
    t == { (ready 0x4000 1 2 0b001).withFetchWord 16 0xDFFF with pc := 0x4001, ir := 0xDFFF }) = true := by decide

/-- Section 2.5: 0x21FF loads itself. -/
theorem test_ld_itself : after (start []) 0x21FF
    (fun t => t.reg .r0 == 0x21FF#16 && t.cond == 0b001#3) = true := by decide

/-- Section 2.7: 0xA001 through a pointer to the status cell, a ready poll. -/
theorem test_ldi_polls : after ({ start [0x51] with polls := [true] }.memWrite 0x3002 0xFE00) 0xA001
    (fun t => t.reg .r0 == 0x8000#16 && t.cond == 0b100#3 && t.mem.read 0xFE02 == 0x0051#16 && t.input == [])
    = true := by decide

/-- Section 2.7: 0xA001 through a pointer to the status cell, a poll that is not ready although a byte is there. -/
theorem test_ldi_poll_not_ready : after ({ start [0x51] with polls := [false] }.memWrite 0x3002 0xFE00) 0xA001
    (fun t => t.reg .r0 == 0#16 && t.cond == 0b010#3 && t.input == [0x51#8]) = true := by decide

/-- Section 2.5: 0x6041 with the base at 0xFFFF reads cell 0x0000. -/
theorem test_ldr_wraps : after ((ready 0x3000 0xFFFF 0 0b000).memWrite 0 5) 0x6041
    (fun t => t.reg .r0 == 5#16 && t.cond == 0b001#3) = true := by decide

/-- Section 2.5: 0xE1FF at 0x8000 gives NEG from the address. -/
theorem test_lea_flags : after (ready 0x8000 0 0 0b000) 0xE1FF
    (fun t => t.reg .r0 == 0x8000#16 && t.cond == 0b100#3) = true := by decide

/-- Section 2.6: 0x3201 at 0x3006. -/
theorem test_st : after (ready 0x3006 0x000F 0 0b010) 0x3201
    (fun t => t.mem.read 0x3008 == 0x000F#16 && t.cond == 0b010#3) = true := by decide

/-- Section 2.7: 0xB001 to the status cell is a plain store (here R1: 0xB201). -/
theorem test_sti_status_cell : after ((ready 0x3000 0x1234 0 0b000).memWrite 0x3002 0xFE00) 0xB201
    (fun t => t.mem.read 0xFE00 == 0x1234#16 && t.pollCount == 0) = true := by decide

/-- Section 2.6: 0x7020 wraps below 0x0000 (here base R1 = 0x0010: 0x7260). -/
theorem test_str_wraps : after (ready 0x3000 0x0010 0 0b000) 0x7260
    (fun t => t.mem.read 0xFFF0 == 0x0010#16) = true := by decide

/-- Section 2.8: GETC takes the byte and leaves COND. -/
theorem test_getc : after (start [0x41, 0x42]) 0xF020
    (fun t => t.reg .r0 == 0x0041#16 && t.cond == 0b000#3 && t.input == [0x42#8] && t.out == []) = true := by decide

/-- Section 2.8: GETC with no byte holds. -/
theorem test_getc_holds : after (start []) 0xF020 (fun t => t == (start []).withFetchWord 16 0xF020) = true := by
  decide

/-- Section 2.8: OUT with `trapLinksR7`. -/
theorem test_out_links : after { (start []).setReg .r0 0x1241 with params := { params with trapLinksR7 := true } }
    0xF021 (fun t => t.out == [0x41#8] && t.reg .r7 == 0x3001#16) = true := by decide

/-- Section 2.8: PUTS goes on after a nonzero cell with a zero low byte. -/
theorem test_puts : after ((((start []).setReg .r0 0x4000).memWrite 0x4000 0x0100).memWrite 0x4001 0x0041) 0xF022
    (fun t => t.out == [0x00#8, 0x41#8] && t.run == .running) = true := by decide

/-- Section 2.8: PUTS at 0xFFFF with no zero cell. -/
theorem test_puts_wraps : after (((start []).setReg .r0 0xFFFF).memWrite 0xFFFF 0x0041) 0xF022
    (fun t => t.out == [0x41#8] && t.run == .fatal (.stringWrap 0xFFFF)) = true := by decide

/-- Section 2.8: IN prompts and echoes. -/
theorem test_in : after (start [0x79]) 0xF023
    (fun t => t.reg .r0 == 0x0079#16 && t.out == [0x3E#8, 0x79#8]) = true := by decide

/-- Section 2.8: PUTSP, "Hello" packed. -/
theorem test_putsp : after (((((start []).setReg .r0 0x4000).memWrite 0x4000 0x6548).memWrite 0x4001
    0x6C6C).memWrite 0x4002 0x006F) 0xF024
    (fun t => t.out == [0x48#8, 0x65#8, 0x6C#8, 0x6C#8, 0x6F#8]) = true := by decide

/-- Section 2.8: PUTSP, a zero low byte under a nonzero high byte. -/
theorem test_putsp_zero_low : after (((start []).setReg .r0 0x4000).memWrite 0x4000 0x4800) 0xF024
    (fun t => t.out == [0x00#8, 0x48#8]) = true := by decide

/-- Section 2.8: HALT with bits 11:8 set, at 0x3002. -/
theorem test_halt : after { start [] with pc := 0x3002 } 0xFF25
    (fun t => t.run == .halted && t.pc == 0x3003#16 && t.out == haltWord ++ [0x0A#8]) = true := by decide

/-- Section 2.8: an unknown vector. -/
theorem test_trap_unknown : after (start []) 0xF026
    (fun t => t.run == .fatal (.unknownTrapVector 0x26) && t.pc == 0x3001#16 && t.out == [0x21#8]) = true := by
  decide

/-! Witnesses: states and operands that meet the hypotheses of each statement that has some, all together -/

/-- The words of the encoding clauses, one for each row's hypothesis. -/
theorem witness_encoding_clauses :
    (0x1042#16 &&& 0xF020#16 = 0x1000#16 ∧ 0x1021#16 &&& 0xF020#16 = 0x1020#16 ∧
      0x5042#16 &&& 0xF020#16 = 0x5000#16 ∧ 0x5020#16 &&& 0xF020#16 = 0x5020#16 ∧
      0x96FF#16 &&& 0xF000#16 = 0x9000#16 ∧ 0x0E01#16 &&& 0xF000#16 = 0x0000#16 ∧
      0xC1C0#16 &&& 0xF000#16 = 0xC000#16 ∧ 0x4807#16 &&& 0xF800#16 = 0x4800#16 ∧
      0x41C0#16 &&& 0xF800#16 = 0x4000#16 ∧ 0x8000#16 &&& 0xF000#16 = 0x8000#16 ∧
      0xDFFF#16 &&& 0xF000#16 = 0xD000#16) ∧
    (0x2403#16 &&& 0xF000#16 = 0x2000#16 ∧ 0xA801#16 &&& 0xF000#16 = 0xA000#16 ∧
      0x6641#16 &&& 0xF000#16 = 0x6000#16 ∧ 0xE1FF#16 &&& 0xF000#16 = 0xE000#16 ∧
      0x3201#16 &&& 0xF000#16 = 0x3000#16 ∧ 0xB402#16 &&& 0xF000#16 = 0xB000#16 ∧
      0x7442#16 &&& 0xF000#16 = 0x7000#16 ∧ 0xFF25#16 &&& 0xF000#16 = 0xF000#16) := by decide

/-- `TrapVectorSelectsTheService`: the recognised range's ends and the vectors just outside it. -/
theorem witness_trap_vector_bounds :
    field 0xF020#16 7 0 = 0x20 ∧ field 0xF025#16 7 0 = 0x25 ∧
    ¬ (0x20 ≤ field 0xF01F#16 7 0 ∧ field 0xF01F#16 7 0 ≤ 0x25) ∧
    ¬ (0x20 ≤ field 0xF026#16 7 0 ∧ field 0xF026#16 7 0 ≤ 0x25) := by decide

/-- `DecodeAfterEncodeIsIdentity`. -/
theorem witness_decode_after_encode : (Instr.trap 0x1F#8).wf = true ∧ Instr.rsvD.wf = true := by decide

/-- `OpcodeTableRowsPartitionTheWords`. -/
theorem witness_class_rows : rowAddReg ∈ classRows ∧ rowAddReg.has 0x1042#16 := by decide

/-- `LoadPcRelative`, `LoadBaseOffset`: an address other than the status cell, and the status cell itself. -/
theorem witness_load_address :
    (start []).pc + signed 0x1FF#9 ≠ (start []).params.kbsrAddr ∧
    (start []).reg .r0 + signed 1#6 ≠ (start []).params.kbsrAddr ∧
    { start [] with pc := 0xFE00 }.pc + signed 0#9 = (start []).params.kbsrAddr := by decide

/-- `LoadIndirect`, `StoreIndirect`: every state has the pair of the read; here away from the status cell. -/
theorem witness_indirect :
    (start []).mem.wf = true ∧ (start []).memRead ((start []).pc + signed 1#9) = (0x0000#16, start []) ∧
    (start []).pc + signed 1#9 ≠ (start []).params.kbsrAddr ∧
    (start []).mem.read ((start []).pc + signed 1#9) ≠ (start []).params.kbsrAddr := by decide

/-- `LoadIndirect`: the pointer cell is the status cell, and the read polls. -/
theorem witness_indirect_polls :
    ({ start [] with pc := 0xFE00 }.memRead ({ start [] with pc := 0xFE00 }.pc + signed 0#9)).1 = 0x0000#16 := by
  decide

/-- `StorePcRelative`, `StoreBaseOffset`, `MemWriteSetsOneCell`, `StoreIsSeenByTheNextFetch`: a memory with a
listed cell, in canonical form, and device addresses that differ. -/
theorem witness_canonical_memory :
    ((start []).memWrite 0xFFFF 7).mem.wf = true ∧
    ((start []).memWrite 0xFFFF 7).params.kbsrAddr ≠ ((start []).memWrite 0xFFFF 7).params.kbdrAddr ∧
    ((start []).memWrite 0xFFFF 7).pc ≠ ((start []).memWrite 0xFFFF 7).params.kbsrAddr := by decide

/-- `GetcReadsOneByte`, `InPromptsReadsAndEchoes`; and their clauses on both values of the flags parameter. -/
theorem witness_input :
    (start [0x41]).input = 0x41#8 :: [] ∧ (start [0x41]).params.trapInputSetsFlags = false ∧
    { start [0x41] with params := { params with trapInputSetsFlags := true } }.params.trapInputSetsFlags = true := by
  decide

/-- A state whose R0 points at the last but one cell, which is not zero. -/
def lastString : State := ((start []).setReg .r0 0xFFFE).memWrite 0xFFFE 0x0041

/-- `PutsWritesTheString`, `PutspWritesThePackedString`: a string whose zero cell is the last cell, 0xFFFF. -/
theorem witness_string :
    (lastString.reg .r0).toNat + 1 < 65536 ∧
    (∀ k < 1, lastString.mem.read (lastString.reg .r0 + BitVec.ofNat 16 k) ≠ 0x0000#16) ∧
    lastString.mem.read (lastString.reg .r0 + BitVec.ofNat 16 1) = 0x0000#16 := by decide

/-- `PutsWritesTheString`: the empty string. -/
theorem witness_empty_string :
    ((start []).reg .r0).toNat + 0 < 65536 ∧
    (start []).mem.read ((start []).reg .r0 + BitVec.ofNat 16 0) = 0x0000#16 := by decide

/-- `UnterminatedStringIsFatal`. -/
theorem witness_unterminated_string : ∀ k, ((lastString.setReg .r0 0xFFFF).reg .r0).toNat + k < 65536 →
    ((lastString.setReg .r0 0xFFFF).memWrite 0xFFFF 1).mem.read
      (((lastString.setReg .r0 0xFFFF).memWrite 0xFFFF 1).reg .r0 + BitVec.ofNat 16 k) ≠ 0x0000#16 := by
  intro k hk
  obtain rfl : k = 0 := by
    have h : ((lastString.setReg .r0 0xFFFF).reg .r0).toNat = 65535 := by decide
    omega
  decide

/-- `UnknownVectorIsFatal`: the vectors just outside the recognised range. -/
theorem witness_unknown_vector : ¬ Recognized 0x1F#8 ∧ ¬ Recognized 0x26#8 ∧ Recognized 0x20#8 ∧ Recognized 0x25#8 := by
  unfold Recognized; decide

/-- The rules over the whole instruction set: an instruction with a next state and its premises; ADD has a COND
register and leaves R1, PC and cell 0. -/
theorem witness_whole_set : ∃ t, exec (.addReg .r0 .r1 .r2) (ready 0x3000 1 2 0b000) = .next t ∧
    (Instr.addReg .r0 .r1 .r2).wf = true ∧
    condFrom (ready 0x3000 1 2 0b000).params (.addReg .r0 .r1 .r2) = some .r0 ∧
    Reg.r1 ∉ regsWritten (ready 0x3000 1 2 0b000).params (.addReg .r0 .r1 .r2) ∧
    (0x0000#16 ∉ cellsWritten (ready 0x3000 1 2 0b000) (.addReg .r0 .r1 .r2)) ∧
    ¬ writesPc (ready 0x3000 1 2 0b000) (.addReg .r0 .r1 .r2) :=
  ⟨_, rfl, by decide, by decide, by decide, by decide, id⟩

/-- `CondFollowsTheFlagUpdatingInstructions`, the clause of an instruction that does not update COND. -/
theorem witness_cond_kept : ∃ t, exec (.jsr 1#11) (start []) = .next t ∧ (Instr.jsr 1#11).wf = true ∧
    condFrom (start []).params (.jsr 1#11) = none := ⟨_, rfl, by decide, by decide⟩

/-- `OnlyBranchReadsCond`. -/
theorem witness_not_a_branch : Instr.rsv8.wf = true ∧ ∀ n z p off, Instr.rsv8 ≠ .br n z p off :=
  ⟨rfl, fun _ _ _ _ h => by cases h⟩

/-- `KeyboardStatusReadWhenReady`, `BothPollAnswersAreAdmitted`. -/
theorem witness_ready_poll :
    ({ start [0x51] with polls := [true] }).mem.wf = true ∧
    ({ start [0x51] with polls := [true] }).params.kbsrAddr ≠ ({ start [0x51] with polls := [true] }).params.kbdrAddr ∧
    ({ start [0x51] with polls := [true] }).input = 0x51#8 :: [] ∧
    ({ start [0x51] with polls := [true] }).draw = true ∧
    ({ start [0x51] with polls := [true] }).polls = true :: [] := by decide

/-- `KeyboardStatusReadWhenNotReady`: no byte, and a draw that says not yet. -/
theorem witness_poll_not_ready :
    (start []).mem.wf = true ∧ (start []).input = [] ∧ ({ start [0x51] with polls := [false] }).draw = false := by
  decide

/-- `CanonicalMemoryIsDeterminedByItsCells`. -/
theorem witness_two_memories : ((start []).memWrite 1 2).mem.wf = true ∧
    (((start []).memWrite 3 4).memWrite 1 2 |>.memWrite 3 0).mem.wf = true ∧
    ∀ a, ((start []).memWrite 1 2).mem.read a = ((((start []).memWrite 3 4).memWrite 1 2).memWrite 3 0).mem.read a :=
  ⟨by decide, by decide, fun _ => rfl⟩

/-- `SignExtensionKeepsTheSignedValue`: the fields next to the sign's change, for each width. -/
theorem witness_sign_bits :
    (0x0F#5).getLsbD 4 = false ∧ (0x10#5).getLsbD 4 = true ∧ (0x1F#6).getLsbD 5 = false ∧
    (0x20#6).getLsbD 5 = true ∧ (0x0FF#9).getLsbD 8 = false ∧ (0x100#9).getLsbD 8 = true ∧
    (0x3FF#11).getLsbD 10 = false ∧ (0x400#11).getLsbD 10 = true := by decide

/-- `StepRunsTheDecodedInstruction`: a running machine, with no host move and with an idle one. -/
theorem witness_step :
    (start []).run = .running ∧ (fetched (start [])).wf = true ∧ (start []).hostMoves = [] ∧
    (start []).pc ≠ (start []).params.kbsrAddr ∧
    { start [] with hostMoves := [.idle] }.hostMoves = .idle :: [] ∧
    ∃ t, exec (fetched (start [])) (seen (start [])) = .next t :=
  ⟨rfl, by decide, rfl, by decide, rfl, _, rfl⟩

/-- `StepRunsTheDecodedInstruction`, the hold; `HeldCycleChangesNothing` for GETC and for IN. -/
theorem witness_hold :
    ((start []).withFetchWord 16 0xF020).run = .running ∧ ((start []).withFetchWord 16 0xF020).hostMoves = [] ∧
    ((start []).withFetchWord 16 0xF020).input = [] ∧
    fetched ((start []).withFetchWord 16 0xF020) = .trapGetc ∧ fetched ((start []).withFetchWord 16 0xF023) = .trapIn ∧
    exec .trapGetc (seen ((start []).withFetchWord 16 0xF020)) = .fault .inputHold :=
  ⟨rfl, rfl, rfl, by decide, by decide, rfl⟩

/-- `EndedMachineMakesNoStep`: each terminal run state. -/
theorem witness_ended : (start []).halt.ended ∧ (start []).abort.ended ∧
    ((start []).raiseFatal (.stringWrap 0)).ended ∧ ((start []).raiseFatal (.unknownTrapVector 0)).ended := by
  unfold State.ended; decide

/-- `TerminationRequestAborts`, `RunningMachineAlwaysSteps`. -/
theorem witness_termination : { start [] with hostMoves := [.terminate] }.run = .running ∧
    { start [] with hostMoves := [.terminate] }.hostMoves = .terminate :: [] := ⟨rfl, rfl⟩

/-- `SuppliedByteLiftsTheHold` (its first clause), `StreamsAreInOrder`, `NoInstructionObservesIr`: a step that takes
a byte from the host, with a byte there already. -/
theorem witness_supply_step : { start [0x41] with hostMoves := [.supply 0x42] }.run = .running ∧
    { start [0x41] with hostMoves := [.supply 0x42] }.hostMoves = .supply 0x42 :: [] ∧
    ∃ t, step { start [0x41] with hostMoves := [.supply 0x42] } = .next t ∧ t.input = [0x41#8, 0x42#8] :=
  ⟨rfl, rfl, _, rfl, rfl⟩

/-- `NoInstructionObservesIr`: a cycle that runs its instruction, after an idle move; a cycle that holds; the
termination request. `StreamsAreInOrder`: none of these steps is a supply. -/
theorem witness_ir_clauses :
    (BeforeCycle { start [] with hostMoves := [.idle] } (start []) ∧
      exec (fetched (start [])) (seen (start [])) ≠ .fault .inputHold ∧
      ∃ t, step { start [] with hostMoves := [.idle] } = .next t) ∧
    (BeforeCycle ((start []).withFetchWord 16 0xF020) ((start []).withFetchWord 16 0xF020) ∧
      exec (fetched ((start []).withFetchWord 16 0xF020)) (seen ((start []).withFetchWord 16 0xF020)) =
        .fault .inputHold ∧
      ∃ t, step ((start []).withFetchWord 16 0xF020) = .next t) ∧
    ∃ t, step { start [] with hostMoves := [.terminate] } = .next t :=
  ⟨⟨.inr ⟨[], rfl, rfl⟩, fun h => by injection h, _, rfl⟩, ⟨.inl ⟨rfl, rfl⟩, rfl, _, rfl⟩, _, rfl⟩

/-- `SuppliedByteLiftsTheHold`, its second clause. -/
theorem witness_supply :
    { (start []).withFetchWord 16 0xF020 with hostMoves := [.supply 0x41] }.run = .running ∧
    { (start []).withFetchWord 16 0xF020 with hostMoves := [.supply 0x41] }.input = [] ∧
    { (start []).withFetchWord 16 0xF020 with hostMoves := [.supply 0x41] }.pc ≠ params.kbsrAddr ∧
    decode ({ (start []).withFetchWord 16 0xF020 with hostMoves := [.supply 0x41] }.mem.read 0x3000) = .trapGetc := by
  decide

/-- `OnlyTheseEventsEndARun`: a HALT. -/
theorem witness_end_of_run : ∃ t, step ((start []).withFetchWord 16 0xF025) = .next t ∧ t.run ≠ .running :=
  ⟨_, rfl, by decide⟩

/-- `StepKeepsTheInvariant`, `StreamsAreInOrder`: a state that meets the invariant and steps; `LaunchSatisfiesTheInvariant`:
parameters that meet the launch premises. -/
theorem witness_invariant : (start []).Inv ∧ params.wf = true ∧ ∃ t, step (start []) = .next t :=
  ⟨⟨rfl, .inl rfl, by decide⟩, by decide, _, rfl⟩

/-- `LoadedImageIsInMemory`: an image that ends at the last cell. -/
theorem witness_image : (start []).mem.wf = true ∧ (0xFFFE#16).toNat + [1#16, 2#16].length ≤ 65536 := by decide

end Sys2Proof.Tests
end

section
/-! PROOF. Sign extension (00_scope.md R7), for every field width up to 16. -/

namespace Sys2Proof.Machine

/-- The value of R7's two branches in one: the ones set above a set sign bit add `2 ^ 16 - 2 ^ n`. -/
theorem sext_toNat {n : Nat} (hn : n ≤ 16) (v : BitVec n) :
    (sext v).toNat = v.toNat + if v.getLsbD (n - 1) then 65536 - 2 ^ n else 0 := by
  rw [sext, BitVec.toNat_signExtend, BitVec.toNat_setWidth_of_le hn, BitVec.msb_eq_getLsbD_last]

/-- Bit by bit: the field's own bits below `n`, ones from `n` up. -/
theorem sext_eq_ones_or_of_sign_set {n : Nat} (v : BitVec n) (hsign : v.getLsbD (n - 1) = true) :
    sext v = (0xFFFF#16 <<< n) ||| v.setWidth 16 := by
  have hones : 0xFFFF#16 = BitVec.allOnes 16 := rfl
  have hmsb : v.msb = true := (BitVec.msb_eq_getLsbD_last v).trans hsign
  refine BitVec.eq_of_getLsbD_eq fun i hi => ?_
  rw [sext, BitVec.getLsbD_signExtend, hones, BitVec.getLsbD_or, BitVec.getLsbD_shiftLeft, BitVec.getLsbD_allOnes]
  by_cases hin : i < n
  · simp [hi, hin]
  · have hlow : i - n < 16 := by omega
    simp [hi, hin, hmsb, hlow]

/-- Settles O48: the two branches of R7 hold for every width up to 16, so for the four field widths. -/
theorem signExtensionKeepsTheSignedValue : Obligations.SignExtensionKeepsTheSignedValue := by
  intro n hmem v
  have hn : n ≤ 16 := (by decide : ∀ k ∈ [5, 6, 9, 11], k ≤ 16) n hmem
  have hpow : 2 ^ n ≤ 65536 := Nat.pow_le_pow_right (by decide) hn
  have hval := sext_toNat hn v
  refine ⟨fun hclear => ?_, fun hset => ⟨?_, sext_eq_ones_or_of_sign_set v hset⟩⟩
  · simpa [hclear] using hval
  · rw [hval, if_pos hset]
    omega

end Sys2Proof.Machine
end

section
/-! PROOF. What one well-formed instruction can do to the state, said once (`Effect`): the invariant of a step, the
frames of COND, the registers and PC, the order of the streams and the ends of a run all come from it. -/

namespace Sys2Proof.Machine
open Sys2Proof.Spec

variable {s m t b : State} {i : Instr}

/-! Well-formed instructions: what the decoder gives, and what an ill-formed TRAP term runs -/

/-- The instruction of a TRAP vector is well-formed (45_trap.md R130). -/
theorem decodeTrap_wf (v : Byte) : (decodeTrap v).wf = true := by
  unfold decodeTrap
  split
  case h_7 hv => simp [Instr.wf, hv]
  all_goals rfl

/-- Every word decodes to a well-formed instruction (30_encoding.md R69). -/
theorem decode_wf (w : Word) : (decode w).wf = true := by
  unfold decode
  split
  case h_2 | h_5 | h_6 => split <;> rfl
  case h_16 => exact decodeTrap_wf _
  all_goals rfl

/-- The general TRAP term runs the instruction of its vector. -/
theorem exec_trap_eq_exec_decodeTrap (v : Byte) (s : State) : exec (.trap v) s = exec (decodeTrap v) s := by
  simp only [exec, execTrap, decodeTrap]
  cases hv : Service.ofVector v with
  | none => simp only [hv]
  | some k => cases k <;> rfl

/-- No TRAP writes PC (45_trap.md R138). -/
theorem not_writesPc_decodeTrap (s : State) (v : Byte) : ¬ writesPc s (decodeTrap v) := by
  unfold decodeTrap
  split <;> exact id

/-- Every term, ill-formed ones too, runs as a well-formed instruction that writes PC exactly when it does. -/
theorem exists_wf_exec_eq (i : Instr) :
    ∃ j : Instr, j.wf = true ∧ ∀ s, exec i s = exec j s ∧ (writesPc s j ↔ writesPc s i) := by
  cases i
  case trap v =>
    exact ⟨decodeTrap v, decodeTrap_wf v, fun s =>
      ⟨exec_trap_eq_exec_decodeTrap v s, iff_of_false (not_writesPc_decodeTrap s v) id⟩⟩
  all_goals exact ⟨_, rfl, fun _ => ⟨rfl, Iff.rfl⟩⟩

/-- The vectors without a service are those outside 0x20 to 0x25 (45_trap.md R130). -/
theorem not_recognized_of_ofVector (v : Byte) (h : Service.ofVector v = none) : ¬ Recognized v := by
  unfold Service.ofVector at h
  split_ifs at h
  unfold Recognized
  bv_omega

/-! Memory Unit reads in a row -/

/-- The states that Memory Unit reads alone lead to (20_memory.md R43, R44). -/
inductive Reads (s : State) : State → Prop
  | refl : Reads s s
  | read {m : State} (a : Word) : Reads s m → Reads s (m.afterRead a)

theorem Reads.pc (h : Reads s m) : m.pc = s.pc := by induction h <;> simp [*]
theorem Reads.cond (h : Reads s m) : m.cond = s.cond := by induction h <;> simp [*]
theorem Reads.reg (h : Reads s m) (r : Reg) : m.reg r = s.reg r := by induction h <;> simp [*]
theorem Reads.ir (h : Reads s m) : m.ir = s.ir := by induction h <;> simp [*]
theorem Reads.run (h : Reads s m) : m.run = s.run := by induction h <;> simp [*]
theorem Reads.out (h : Reads s m) : m.out = s.out := by induction h <;> simp [*]
theorem Reads.params (h : Reads s m) : m.params = s.params := by induction h <;> simp [*]

theorem Reads.mem_wf (h : Reads s m) (hs : s.mem.wf = true) : m.mem.wf = true := by
  induction h with
  | refl => exact hs
  | read a _ ih => exact State.afterRead_mem_wf _ ih a

theorem Reads.input_suffix (h : Reads s m) : m.input <:+ s.input := by
  induction h with
  | refl => exact List.suffix_refl _
  | read a _ ih => exact (State.afterRead_input_suffix _ a).trans ih

/-! The effect of an instruction -/

/-- Why a service ends the run, and the run state it ends in (10_state.md R31; 45_trap.md R133, R135, R136). -/
def ServiceEnds (s : State) (i : Instr) (r : RunState) : Prop :=
  (i = .trapHalt ∧ r = .halted) ∨ ((i = .trapPuts ∨ i = .trapPutsp) ∧ r = .fatal (.stringWrap (s.reg .r0)))

/-- What instruction i can make of s: each shape with what `condFrom`, `regsWritten` and `writesPc` say of i there. -/
inductive Effect (s : State) (i : Instr) : State → Prop
  /-- an operate instruction or a load: the register, and COND from it -/
  | result {m : State} {dr : Reg} {v : Word} : Reads s m → condFrom s.params i = some dr →
      dr ∈ regsWritten s.params i → Effect s i (m.setResult dr v)
  /-- a store, after its pointer's read if it has one -/
  | store {m : State} {a v : Word} : Reads s m → condFrom s.params i = none → Effect s i (m.memWrite a v)
  /-- a reserved class, or a BR that is not taken -/
  | skip : condFrom s.params i = none → Effect s i s
  /-- a taken BR, or JMP -/
  | jump {target : Word} : condFrom s.params i = none → writesPc s i → Effect s i (s.setPc target)
  /-- JSR and JSRR -/
  | call {target : Word} : condFrom s.params i = none → .r7 ∈ regsWritten s.params i → writesPc s i →
      Effect s i (s.link.setPc target)
  /-- GETC and IN: the first input byte goes to R0 -/
  | takeByte {x : Byte} {rest bs : List Byte} : s.input = x :: rest →
      condFrom s.params i = (if s.params.trapInputSetsFlags then some .r0 else none) →
      .r0 ∈ regsWritten s.params i → (s.params.trapLinksR7 = true → .r7 ∈ regsWritten s.params i) →
      Effect s i ((({ s.trapLink with input := rest } : State).emit bs).acceptByte x)
  /-- OUT, PUTS and PUTSP -/
  | print {bs : List Byte} : condFrom s.params i = none →
      (s.params.trapLinksR7 = true → .r7 ∈ regsWritten s.params i) → Effect s i (s.trapLink.emit bs)
  /-- HALT, and a string that does not end -/
  | stop {bs : List Byte} {r : RunState} : condFrom s.params i = none →
      (s.params.trapLinksR7 = true → .r7 ∈ regsWritten s.params i) → ServiceEnds s i r →
      Effect s i { s.trapLink.emit bs with run := r }
  /-- a vector outside the six -/
  | unknownVector {v : Byte} {bs : List Byte} : i = .trap v → Service.ofVector v = none →
      Effect s i ((s.emit bs).raiseFatal (.unknownTrapVector v))

theorem State.emit_nil (s : State) : s.emit [] = s := by simp [State.emit]

theorem State.emit_emit (s : State) (as bs : List Byte) : (s.emit as).emit bs = s.emit (as ++ bs) := by
  simp [State.emit]

/-- R7's link leaves R0 as it was. -/
theorem State.reg_r0_trapLink (s : State) : s.trapLink.reg .r0 = s.reg .r0 := by simp [State.reg_trapLink]

/-- GETC and IN write R0 (R23). -/
theorem r0_mem_regsWritten (p : Params) (h : i = .trapGetc ∨ i = .trapIn) : .r0 ∈ regsWritten p i := by
  rcases h with rfl | rfl <;> simp only [regsWritten] <;> split <;> simp

/-- A service writes R7 when `trapLinksR7` says so (R23; 45_trap.md R130). -/
theorem r7_mem_regsWritten {p : Params}
    (h : i = .trapGetc ∨ i = .trapOut ∨ i = .trapPuts ∨ i = .trapIn ∨ i = .trapPutsp ∨ i = .trapHalt)
    (hl : p.trapLinksR7 = true) : .r7 ∈ regsWritten p i := by
  rcases h with rfl | rfl | rfl | rfl | rfl | rfl <;> simp [regsWritten, hl]

theorem effect_of_serviceGetc (h : serviceGetc s.trapLink = .next t) : Effect s .trapGetc t := by
  obtain ⟨x, rest, hin, rfl⟩ := serviceGetc_next h
  rw [← State.emit_nil { s.trapLink with input := rest }]
  exact .takeByte (by simpa using hin) rfl (r0_mem_regsWritten _ (by simp)) (r7_mem_regsWritten (by simp))

theorem effect_of_serviceIn (h : serviceIn s.trapLink = .next t) : Effect s .trapIn t := by
  obtain ⟨x, rest, hin, rfl⟩ := serviceIn_next h
  have hemit := State.emit_emit { s.trapLink with input := rest } s.trapLink.params.inPrompt [x]
  exact hemit ▸ .takeByte (by simpa using hin) rfl (r0_mem_regsWritten _ (by simp)) (r7_mem_regsWritten (by simp))

/-- PUTS and PUTSP print a string, or stop where it does not end. -/
theorem effect_of_putString (bytes : Word → List Byte) (hi : i = .trapPuts ∨ i = .trapPutsp) :
    Effect s i (s.trapLink.putString bytes) := by
  have hc : condFrom s.params i = none := by rcases hi with rfl | rfl <;> rfl
  have hl := r7_mem_regsWritten (p := s.params) (i := i) (by rcases hi with rfl | rfl <;> simp)
  rcases s.trapLink.putString_cases bytes with ⟨_, e⟩ | ⟨_, e⟩ <;> rw [e]
  · exact .print hc hl
  · rw [State.reg_r0_trapLink]
    exact .stop hc hl (.inr ⟨hi, rfl⟩)

/-- Every next state that a well-formed instruction answers is one of the effects. -/
theorem effect_of_exec (hi : i.wf = true) (h : exec i s = .next t) : Effect s i t := by
  cases i with
  | br n z p off =>
    cases h
    split
    · exact .jump rfl ‹_›
    · exact .skip rfl
  | addReg | addImm | andReg | andImm | not | lea => cases h; exact .result .refl rfl (.head _)
  | ld | ldr => cases h; exact .result (.read _ .refl) rfl (.head _)
  | ldi => cases h; exact .result (.read _ (.read _ .refl)) rfl (.head _)
  | st | str => cases h; exact .store .refl rfl
  | sti => cases h; exact .store (.read _ .refl) rfl
  | jmp => cases h; exact .jump rfl trivial
  | jsr | jsrr => cases h; exact .call rfl (.head _) trivial
  | rsv8 | rsvD => cases h; exact .skip rfl
  | trapGetc => exact effect_of_serviceGetc h
  | trapIn => exact effect_of_serviceIn h
  | trapOut => cases h; exact .print rfl (r7_mem_regsWritten (by simp))
  | trapPuts => cases h; exact effect_of_putString _ (.inl rfl)
  | trapPutsp => cases h; exact effect_of_putString _ (.inr rfl)
  | trapHalt => cases h; exact .stop rfl (r7_mem_regsWritten (by simp)) (.inl ⟨rfl, rfl⟩)
  | trap v =>
    have hu : unknownVector v s = .next t := execTrap_of_wf hi s ▸ h
    cases hu
    exact .unknownVector rfl (ofVector_of_wf hi)

/-! What every effect keeps -/

theorem Effect.params (h : Effect s i t) : t.params = s.params := by
  cases h with
  | result hm | store hm => simp [hm.params]
  | _ => simp

theorem Effect.ir (h : Effect s i t) : t.ir = s.ir := by
  cases h with
  | result hm | store hm => simp [hm.ir]
  | _ => simp

theorem Effect.mem_wf (h : Effect s i t) (hs : s.mem.wf = true) : t.mem.wf = true := by
  cases h with
  | result hm | store hm => simp [hm.mem_wf hs]
  | _ => simpa using hs

theorem Effect.input_suffix (h : Effect s i t) : t.input <:+ s.input := by
  cases h with
  | result hm | store hm => exact hm.input_suffix
  | takeByte hin => simp [hin]
  | _ => simp

theorem Effect.out_prefix (h : Effect s i t) : s.out <+: t.out := by
  cases h with
  | result hm | store hm => simp [hm.out]
  | _ => simp

/-- PC changes only by control transfer (10_state.md R25). -/
theorem Effect.pc (h : Effect s i t) (hpc : ¬ writesPc s i) : t.pc = s.pc := by
  cases h with
  | result hm | store hm => simp [hm.pc]
  | jump _ hw | call _ _ hw => exact absurd hw hpc
  | _ => simp

/-- The link of a service writes R7 only, and only if it is listed (45_trap.md R130). -/
theorem State.reg_trapLink_of_not_mem {l : List Reg} {r : Reg} (h7 : s.params.trapLinksR7 = true → .r7 ∈ l)
    (hr : r ∉ l) : s.trapLink.reg r = s.reg r := by
  rw [State.reg_trapLink, if_neg]
  rintro ⟨hl, rfl⟩
  exact hr (h7 hl)

/-- R[r] changes only for a listed r (10_state.md R23). -/
theorem Effect.reg (h : Effect s i t) {r : Reg} (hr : r ∉ regsWritten s.params i) : t.reg r = s.reg r := by
  cases h with
  | result hm _ hdr => simp [hm.reg, ne_of_mem_of_not_mem hdr hr |>.symm]
  | store hm => simp [hm.reg]
  | call _ h7 => simp [ne_of_mem_of_not_mem h7 hr |>.symm]
  | takeByte _ _ h0 h7 =>
    have hlink := State.reg_trapLink_of_not_mem h7 hr
    rw [State.reg_acceptByte, if_neg (ne_of_mem_of_not_mem h0 hr).symm]
    exact hlink
  | print _ h7 | stop _ h7 => exact State.reg_trapLink_of_not_mem h7 hr
  | _ => simp

/-- The run goes on, or a service or an unknown vector ends it (10_state.md R31). -/
theorem Effect.run (h : Effect s i t) : t.run = s.run ∨ ServiceEnds s i t.run ∨
    ∃ v, i = .trap v ∧ Service.ofVector v = none ∧ t.run = .fatal (.unknownTrapVector v) := by
  cases h with
  | result hm | store hm => simp [hm.run]
  | stop _ _ he => exact .inr (.inl he)
  | unknownVector hi hv => exact .inr (.inr ⟨_, hi, hv, rfl⟩)
  | _ => simp

/-- COND is set from the register of `condFrom`, or kept (10_state.md R28). -/
theorem Effect.cond (h : Effect s i t) :
    (∃ dr, condFrom s.params i = some dr ∧ t.cond = flagsOf (t.reg dr)) ∨
      condFrom s.params i = none ∧ t.cond = s.cond := by
  cases h with
  | result hm hc => exact .inl ⟨_, hc, by simp⟩
  | store hm hc => exact .inr ⟨hc, by simp [hm.cond]⟩
  | takeByte _ hc =>
    cases hf : s.params.trapInputSetsFlags <;> simp [hc, hf, State.acceptByte_cond]
  | unknownVector hi => exact .inr ⟨by rw [hi]; rfl, rfl⟩
  | skip hc | jump hc | call hc | print hc | stop hc => exact .inr ⟨hc, by simp⟩

theorem Effect.condLegal (h : Effect s i t) (hs : s.condLegal) : t.condLegal := by
  rcases h.cond with ⟨dr, _, e⟩ | ⟨_, e⟩
  · exact State.condLegal_of_flagsOf e
  · unfold State.condLegal; rwa [e]

theorem Effect.inv (h : Effect s i t) (hs : s.Inv) : t.Inv :=
  ⟨h.mem_wf hs.mem, h.condLegal hs.cond, h.params ▸ hs.params⟩

/-! The fetch and the step -/

/-- The fetch keeps the invariant (40_dispatcher.md R80). -/
theorem State.Inv.fetch (hs : s.Inv) : s.fetch.2.Inv where
  mem := State.afterRead_mem_wf s hs.mem s.pc
  cond := by simpa [State.condLegal] using hs.cond
  params := by simpa using hs.params

@[simp] theorem State.reg_fetch (s : State) (r : Reg) : s.fetch.2.reg r = s.reg r := by simp [State.reg]

/-- The host's idle move does not change what the cycle fetches. -/
theorem BeforeCycle.decode_fetch (hb : BeforeCycle s b) : decode b.fetch.1 = fetched s := by
  rw [hb.eq_update]
  exact congrArg decode (memRead_fst_hostMoves s b.hostMoves s.pc)

/-- Everything a step can do, with the effect of the instruction that its cycle runs. -/
theorem step_effect_cases (h : step s = .next t) : s.run = .running ∧
    ((∃ b, BeforeCycle s b ∧ (Effect b.fetch.2 (fetched s) t ∨ t = b)) ∨
      (∃ x rest, s.hostMoves = .supply x :: rest ∧ t = { s with hostMoves := rest, input := s.input ++ [x] }) ∨
      ∃ rest, s.hostMoves = .terminate :: rest ∧ t = { s with hostMoves := rest, run := .aborted }) := by
  refine (step_cases h).imp_right (Or.imp_left ?_)
  rintro ⟨b, hb, he | ⟨_, rfl⟩⟩
  · exact ⟨b, hb, .inl (effect_of_exec (decode_wf _) (hb.decode_fetch ▸ he))⟩
  · exact ⟨t, hb, .inr rfl⟩

/-- Settles O57: the instruction's effect keeps the invariant and the parameters, and so do the fetch, the hold
and the host's moves. -/
theorem stepKeepsTheInvariant : Obligations.StepKeepsTheInvariant := by
  intro s t hs h
  obtain ⟨_, ⟨b, hb, hrun⟩ | ⟨x, rest, _, rfl⟩ | ⟨rest, _, rfl⟩⟩ := step_effect_cases h
  · have hbinv : b.Inv := hb.eq_update ▸ ⟨hs.mem, hs.cond, hs.params⟩
    have hbparams : b.params = s.params := hb.eq_update ▸ rfl
    rcases hrun with he | rfl
    · exact ⟨he.inv hbinv.fetch, he.params.trans (by simpa using hbparams)⟩
    · exact ⟨hbinv, hbparams⟩
  · exact ⟨⟨hs.mem, hs.cond, hs.params⟩, rfl⟩
  · exact ⟨⟨hs.mem, hs.cond, hs.params⟩, rfl⟩

/-- The flag updater's mask is the spec's (10_state.md R26, R27). -/
theorem flagsOf_spec (v : Word) : FlagsOf (flagsOf v) v := by
  rcases flagsOf_cases v with ⟨h0, e⟩ | ⟨h0, h, e⟩ | ⟨h0, h, e⟩
  · exact ⟨fun _ => e, fun h => absurd h0 h.1, fun h => absurd h0 h.1⟩
  · exact ⟨fun hz => absurd hz h0, fun _ => e, fun hp => absurd (h.symm.trans hp.2) (by decide)⟩
  · exact ⟨fun hz => absurd hz h0, fun hn => absurd (h.symm.trans hn.2) (by decide), fun _ => e⟩

/-- Settles O33: the effect's COND is that of the register R28 names, or the old one. -/
theorem condFollowsTheFlagUpdatingInstructions : Obligations.CondFollowsTheFlagUpdatingInstructions := by
  refine ⟨fun i s t hi h => ?_, fun s => by simp⟩
  rcases (effect_of_exec hi h).cond with ⟨dr, hdr, e⟩ | ⟨hnone, e⟩
  · refine ⟨fun r hr => ?_, fun hnone => ?_⟩
    · cases hdr.symm.trans hr
      exact e ▸ flagsOf_spec _
    · cases hdr.symm.trans hnone
  · exact ⟨fun r hr => (by cases hnone.symm.trans hr), fun _ => e⟩

/-- Settles O34, by the effect's frame of the register file. -/
theorem onlyTheListedRegistersAreWritten : Obligations.OnlyTheListedRegistersAreWritten :=
  fun _ _ _ _ hi h hr => (effect_of_exec hi h).reg hr

/-- Settles O35: an ill-formed TRAP term runs as its service, which writes PC no more than any TRAP does. -/
theorem onlyControlTransferWritesPc : Obligations.OnlyControlTransferWritesPc := by
  refine ⟨fun i s t h hpc => ?_, fun s => by simp [BitVec.toNat_add]⟩
  obtain ⟨j, hj, heq⟩ := exists_wf_exec_eq i
  obtain ⟨hexec, hw⟩ := heq s
  exact (effect_of_exec hj (hexec ▸ h)).pc (mt hw.1 hpc)

/-- Settles O40: an instruction drops input bytes from the front only and appends output only; the fetch may consume
a byte, and only the host's supply adds one. -/
theorem streamsAreInOrder : Obligations.StreamsAreInOrder := by
  refine ⟨fun i s t h => ?_, fun s t h => ?_⟩
  · obtain ⟨j, hj, heq⟩ := exists_wf_exec_eq i
    have he := effect_of_exec hj ((heq s).1 ▸ h)
    exact ⟨he.input_suffix, he.out_prefix⟩
  · obtain ⟨_, ⟨b, hb, hrun⟩ | ⟨x, rest, hm, rfl⟩ | ⟨rest, hm, rfl⟩⟩ := step_effect_cases h
    · have hin : b.input = s.input := hb.eq_update ▸ rfl
      have hout : b.out = s.out := hb.eq_update ▸ rfl
      have hstreams : b.out <+: t.out ∧ t.input <:+ b.input := by
        rcases hrun with he | rfl
        · exact ⟨by simpa using he.out_prefix, he.input_suffix.trans (b.afterRead_input_suffix b.pc)⟩
        · exact ⟨List.prefix_refl _, List.suffix_refl _⟩
      rw [hin, hout] at hstreams
      exact ⟨hstreams.1, fun x rest hm => absurd hm (hb.ne_supply x rest), fun _ => hstreams.2⟩
    · refine ⟨List.prefix_refl _, fun y rest' hm' => ?_, fun hno => absurd hm (hno x rest)⟩
      cases hm.symm.trans hm'
      rfl
    · exact ⟨List.prefix_refl _, fun y rest' hm' => (by cases hm.symm.trans hm'), fun _ => List.suffix_refl _⟩

/-- Settles O56: an effect leaves the run state unless a service or an unknown vector ends the run, and of the
rest of a step only the termination request does. -/
theorem onlyTheseEventsEndARun : Obligations.OnlyTheseEventsEndARun := by
  intro s t h hend
  obtain ⟨hr, ⟨b, hb, hrun⟩ | ⟨x, rest, hm, rfl⟩ | ⟨rest, hm, rfl⟩⟩ := step_effect_cases h
  · have hbrun : b.run = .running := (congrArg State.run hb.eq_update).trans hr
    have hr0 : b.fetch.2.reg .r0 = s.reg .r0 := by rw [State.reg_fetch, hb.eq_update]; rfl
    rcases hrun with he | rfl
    · rcases he.run with e | (hhalt | hwrap) | ⟨v, hv, hnone, e⟩
      · exact absurd (e.trans (by simpa using hbrun)) hend
      · exact .inr (.inl hhalt)
      · exact .inr (.inr (.inr (hr0 ▸ hwrap)))
      · exact .inr (.inr (.inl ⟨v, hv, not_recognized_of_ofVector v hnone, e⟩))
    · exact absurd hbrun hend
  · exact absurd hr hend
  · exact .inl ⟨by simp [hm], rfl⟩

/-- Settles O49: the mask is one of the three flags, and the updater reads the register file only. -/
theorem condFlagUpdater : Obligations.CondFlagUpdater := by
  intro s i
  refine ⟨flagsOf_spec _, ?_, rfl, rfl⟩
  rcases flagsOf_cases (s.reg i) with ⟨_, e⟩ | ⟨_, _, e⟩ | ⟨_, _, e⟩ <;> simp [e, flagZero, flagNeg, flagPos]

/-- Settles O52: `step` asks for a running machine first. -/
theorem endedMachineMakesNoStep : Obligations.EndedMachineMakesNoStep :=
  fun _ hs => if_neg hs

/-- Settles O58: launch holds R36's values field by field. -/
theorem resetState : Obligations.ResetState := by
  refine ⟨?_, rfl, rfl, rfl, rfl, rfl, rfl⟩
  rintro p input polls moves s rfl
  simp [State.reg]

/-- The default parameters meet the launch premises, whatever the rest of the halt notice is (00_scope.md R6). -/
theorem defaultParams_wf : defaultParams.wf = true := by
  have hready : defaultParams.kbsrReady.msb = true := by decide
  have hnotice : haltWord.isPrefixOf defaultParams.haltNotice = true :=
    List.isPrefixOf_iff_prefix.2 (List.prefix_append _ _)
  rw [Params.wf, hready, hnotice]
  rfl

/-- Settles O59: empty memory is canonical, COND holds no flag, and the premises are the parameters' own. -/
theorem launchSatisfiesTheInvariant : Obligations.LaunchSatisfiesTheInvariant := by
  have hlaunch : ∀ p input polls moves, p.wf = true → (State.launch p input polls moves).Inv :=
    fun p input polls moves hp => ⟨rfl, .inl rfl, hp⟩
  exact ⟨hlaunch, hlaunch _ _ _ _ defaultParams_wf⟩

end Sys2Proof.Machine
end

section
/-! PROOF. COND and IR are read by no instruction but BR's test of COND: run with another COND and another IR, an
instruction does the same (10_state.md R29, R30). -/

namespace Sys2Proof.Machine
open Sys2Proof.Spec

/-- s with another COND and another IR. -/
def State.withCondIr (s : State) (c : BitVec 3) (w : Word) : State := { s with cond := c, ir := w }

variable (s : State) (c : BitVec 3) (w : Word)

/-! The shared operations commute with the change, or overwrite COND -/

theorem State.pollKeyboard_withCondIr : (s.withCondIr c w).pollKeyboard = s.pollKeyboard.withCondIr c w := by
  have hb : (s.withCondIr c w).polledByte = s.polledByte := rfl
  unfold State.pollKeyboard
  rw [hb]
  cases s.polledByte <;> rfl

theorem State.afterRead_withCondIr (a : Word) :
    (s.withCondIr c w).afterRead a = (s.afterRead a).withCondIr c w := by
  unfold State.afterRead
  rw [State.pollKeyboard_withCondIr]
  exact (apply_ite (fun t : State => t.withCondIr c w) _ _ _).symm

theorem State.loadFrom_withCondIr (dr : Reg) (ea : Word) :
    (s.withCondIr c w).loadFrom dr ea = (s.loadFrom dr ea).withCondIr (s.loadFrom dr ea).cond w := by
  simp only [State.loadFrom, State.memRead, State.afterRead_withCondIr]
  rfl

theorem State.trapLink_withCondIr : (s.withCondIr c w).trapLink = s.trapLink.withCondIr c w := by
  have hp : (s.withCondIr c w).params = s.params := rfl
  unfold State.trapLink
  rw [hp]
  cases s.params.trapLinksR7 <;> rfl

theorem State.putString_withCondIr (bytes : Word → List Byte) :
    (s.withCondIr c w).putString bytes = (s.putString bytes).withCondIr c w := by
  have hr0 : (s.withCondIr c w).reg .r0 = s.reg .r0 := rfl
  have hmem : (s.withCondIr c w).mem = s.mem := rfl
  simp only [State.putString, hr0, hmem]
  split <;> rfl

/-- R0 from an input byte: COND is overwritten exactly under `trapInputSetsFlags` (45_trap.md R139). -/
theorem State.acceptByte_withCondIr (x : Byte) : (s.withCondIr c w).acceptByte x =
    (s.acceptByte x).withCondIr (if s.params.trapInputSetsFlags = false then c else (s.acceptByte x).cond) w := by
  have hp : ((s.withCondIr c w).setReg .r0 (zext x)).params = s.params := rfl
  unfold State.acceptByte State.trapFlags
  rw [hp, State.setReg_params]
  cases s.params.trapInputSetsFlags <;> rfl

theorem serviceGetc_withCondIr : serviceGetc (s.withCondIr c w) =
    mapNext (fun t => t.withCondIr (if s.params.trapInputSetsFlags = false then c else t.cond) w) (serviceGetc s) := by
  cases hin : s.input with
  | nil => rw [serviceGetc_nil hin, serviceGetc_nil (s := s.withCondIr c w) hin]; rfl
  | cons x rest =>
    rw [serviceGetc_cons hin, serviceGetc_cons (s := s.withCondIr c w) hin]
    exact congrArg _ (State.acceptByte_withCondIr { s with input := rest } c w x)

theorem serviceIn_withCondIr : serviceIn (s.withCondIr c w) =
    mapNext (fun t => t.withCondIr (if s.params.trapInputSetsFlags = false then c else t.cond) w) (serviceIn s) := by
  cases hin : s.input with
  | nil => rw [serviceIn_nil hin, serviceIn_nil (s := s.withCondIr c w) hin]; rfl
  | cons x rest =>
    rw [serviceIn_cons hin, serviceIn_cons (s := s.withCondIr c w) hin]
    exact congrArg _ (State.acceptByte_withCondIr
      (State.emit { s.emit s.params.inPrompt with input := rest } [x]) c w x)

/-- GETC and IN update COND exactly under `trapInputSetsFlags` (10_state.md R28). -/
theorem condFrom_eq_none_iff {i : Instr} (p : Params) (h : i = .trapGetc ∨ i = .trapIn) :
    condFrom p i = none ↔ p.trapInputSetsFlags = false := by
  rcases h with rfl | rfl <;> simp [condFrom]

/-- With another COND and another IR, every well-formed instruction but BR does the same: it leaves that IR, and
COND is what it writes or else that other COND. -/
theorem exec_withCondIr {i : Instr} (hi : i.wf = true) (hbr : ∀ n z p off, i ≠ .br n z p off) :
    exec i (s.withCondIr c w) =
      mapNext (fun t => t.withCondIr (if condFrom s.params i = none then c else t.cond) w) (exec i s) := by
  cases i with
  | br n z p off => exact absurd rfl (hbr n z p off)
  | addReg | addImm | andReg | andImm | not | lea | st | str | jmp | jsr | jsrr | rsv8 | rsvD => rfl
  | ld | ldr => exact congrArg Host.Outcome.next (State.loadFrom_withCondIr s c w _ _)
  | ldi dr off =>
    simp only [exec, execLdi, State.memRead, State.afterRead_withCondIr]
    exact congrArg Host.Outcome.next (State.loadFrom_withCondIr _ c w dr _)
  | sti sr off =>
    simp only [exec, execSti, State.memRead, State.afterRead_withCondIr]
    rfl
  | trapOut | trapHalt =>
    simp only [exec, execTrapOut, execTrapHalt, State.trapLink_withCondIr]
    rfl
  | trapPuts | trapPutsp =>
    simp only [exec, execTrapPuts, execTrapPutsp, servicePuts, servicePutsp, State.trapLink_withCondIr,
      State.putString_withCondIr]
    rfl
  | trapGetc =>
    simp only [exec, execTrapGetc, State.trapLink_withCondIr, serviceGetc_withCondIr, State.trapLink_params,
      condFrom_eq_none_iff s.params (.inl rfl)]
  | trapIn =>
    simp only [exec, execTrapIn, State.trapLink_withCondIr, serviceIn_withCondIr, State.trapLink_params,
      condFrom_eq_none_iff s.params (.inr rfl)]
  | trap v =>
    simp only [exec, execTrap_of_wf hi]
    rfl

/-- Two changes of the next state that agree on what exec answers. -/
theorem mapNext_exec_congr {i : Instr} {s : State} {f g : State → State}
    (h : ∀ t, exec i s = .next t → f t = g t) : mapNext f (exec i s) = mapNext g (exec i s) := by
  cases he : exec i s with
  | next t => exact congrArg Host.Outcome.next (h t he)
  | fault r | refused r => rfl

/-- Settles O37: change COND alone; no effect writes IR, so the two-run law leaves IR too. -/
theorem onlyBranchReadsCond : Obligations.OnlyBranchReadsCond := by
  intro i s c hi hbr
  refine (exec_withCondIr s c s.ir hi hbr).trans (mapNext_exec_congr fun t h => ?_)
  rw [← (effect_of_exec hi h).ir]
  split <;> rfl

/-- BR does not read IR (42_control.md R100). -/
theorem execBr_ir (n z p : Bool) (off : BitVec 9) (s : State) (w : Word) :
    execBr n z p off { s with ir := w } = mapNext (fun t => { t with ir := w }) (execBr n z p off s) := by
  have ht : State.branchTaken { s with ir := w } n z p = s.branchTaken n z p := rfl
  unfold execBr
  rw [ht]
  cases s.branchTaken n z p <;> rfl

/-- No well-formed instruction depends on IR or writes it: for all but BR, change IR alone in the two-run law. -/
theorem exec_ir_of_wf {i : Instr} (hi : i.wf = true) (s : State) (w : Word) :
    exec i { s with ir := w } = mapNext (fun t => { t with ir := w }) (exec i s) := by
  by_cases hbr : ∃ n z p off, i = .br n z p off
  · obtain ⟨n, z, p, off, rfl⟩ := hbr
    exact execBr_ir n z p off s w
  · push Not at hbr
    refine (exec_withCondIr s s.cond w hi hbr).trans (mapNext_exec_congr fun t h => ?_)
    have hcond : (if condFrom s.params i = none then s.cond else t.cond) = t.cond := by
      rcases (effect_of_exec hi h).cond with ⟨dr, hdr, _⟩ | ⟨_, e⟩
      · simp [hdr]
      · simp [e]
    rw [hcond]
    rfl

/-- A cycle that runs its instruction leaves the fetched word in IR (40_dispatcher.md R80). -/
theorem ir_of_exec_fetch {s b t : State} (hb : BeforeCycle s b)
    (h : exec (decode b.fetch.1) b.fetch.2 = .next t) : t.ir = (s.memRead s.pc).1 := by
  rw [(effect_of_exec (decode_wf _) h).ir, hb.eq_update]
  exact memRead_fst_hostMoves s b.hostMoves s.pc

/-- Settles O38: an ill-formed term runs as a well-formed one; a step's IR is the fetched word after an
instruction, and the old one after a hold or a host move. -/
theorem noInstructionObservesIr : Obligations.NoInstructionObservesIr := by
  refine ⟨fun i s w => ?_, fun s t h => ?_⟩
  · obtain ⟨j, hj, heq⟩ := exists_wf_exec_eq i
    rw [(heq _).1, (heq s).1]
    exact exec_ir_of_wf hj s w
  · obtain ⟨_, ⟨b, hb, hrun⟩ | ⟨x, rest, hm, rfl⟩ | ⟨rest, hm, rfl⟩⟩ := step_cases h
    · refine ⟨fun b' hb' => ?_, fun x rest hm => absurd hm (hb.ne_supply x rest),
        fun rest hm => absurd hm (hb.ne_terminate rest)⟩
      obtain rfl := hb'.unique hb
      rcases hrun with hnext | ⟨hhold, rfl⟩
      · exact ⟨fun _ => ir_of_exec_fetch hb hnext, fun hhold => by cases hnext.symm.trans hhold⟩
      · exact ⟨fun hno => absurd hhold hno, fun _ => hb.eq_update ▸ rfl⟩
    · exact ⟨fun b hb => absurd hm (hb.ne_supply x rest), fun _ _ _ => rfl, fun _ _ => rfl⟩
    · exact ⟨fun b hb => absurd hm (hb.ne_terminate rest), fun _ _ _ => rfl, fun _ _ => rfl⟩

end Sys2Proof.Machine
end

section
/-! PROOF. The Memory Unit: its poll by what the poll finds ready, the canonical cell list, and the cells that an
instruction writes (20_memory.md R40 to R47). -/

namespace Sys2Proof.Machine
open Sys2Proof.Spec

variable {s m t : State} {i : Instr} {a : Word} {b : Byte} {rest : List Byte}

/-! What a poll finds and what it does (20_memory.md R44, R45) -/

theorem State.polledByte_of_input (hin : s.input = b :: rest) :
    s.polledByte = if s.draw = true then some b else none := by simp [State.polledByte, hin]

theorem State.polledByte_eq_none (h : s.input = [] ∨ s.draw = false) : s.polledByte = none := by
  cases hin : s.input with
  | nil => simp [State.polledByte, hin]
  | cons b rest =>
    have hd : s.draw = false := h.resolve_left (by simp [hin])
    simp [State.polledByte_of_input hin, hd]

theorem State.pollKeyboard_of_ready (hb : s.polledByte = some b) : s.pollKeyboard =
    ({ s.drawn with input := s.input.tail }.memWrite s.params.kbsrAddr s.params.kbsrReady).memWrite
      s.params.kbdrAddr (zext b) := by simp only [State.pollKeyboard, hb]

theorem State.pollKeyboard_of_not_ready (hb : s.polledByte = none) :
    s.pollKeyboard = s.drawn.memWrite s.params.kbsrAddr 0x0000#16 := by simp only [State.pollKeyboard, hb]

@[simp] theorem State.pollKeyboard_polls (s : State) : s.pollKeyboard.polls = s.polls.tail := by
  unfold State.pollKeyboard; split <;> rfl

theorem State.pollKeyboard_input (s : State) :
    s.pollKeyboard.input = if s.polledByte.isSome then s.input.tail else s.input := by
  cases hb : s.polledByte with
  | none => rw [State.pollKeyboard_of_not_ready hb]; rfl
  | some b => rw [State.pollKeyboard_of_ready hb]; rfl

/-- A status read says whether a byte was ready, whatever the cell held before. -/
theorem State.memRead_kbsr_fst (hm : s.mem.wf = true) (hne : s.params.kbsrAddr ≠ s.params.kbdrAddr) :
    (s.memRead s.params.kbsrAddr).1 = if s.polledByte.isSome then s.params.kbsrReady else 0x0000#16 := by
  rw [State.memRead_fst, State.afterRead_kbsr]
  cases hb : s.polledByte with
  | none => simp [State.pollKeyboard_of_not_ready hb, hm]
  | some b => simp [State.pollKeyboard_of_ready hb, hm, Memory.read_write_other _ hne]

/-- A Memory Unit read leaves what only TRAP changes (20_memory.md R44). -/
theorem untouched_afterRead (s : State) (a : Word) : Untouched s (s.afterRead a) where
  ir := s.afterRead_ir a
  run := s.afterRead_run a
  out := s.afterRead_out a
  hostMoves := s.afterRead_hostMoves a
  params := s.afterRead_params a

/-! The Memory Unit's obligations -/

/-- Settles O42: away from the status cell there is no side effect. -/
theorem memReadElsewhereChangesNothing : Obligations.MemReadElsewhereChangesNothing := by
  intro s a ha
  rw [State.memRead, State.afterRead_of_ne s ha]

/-- A write sets its cell and leaves all else (20_memory.md R42). -/
theorem writesCell_memWrite (hm : s.mem.wf = true) (a v : Word) : WritesCell s s (s.memWrite a v) a v where
  stored := Memory.read_write_same hm a v
  cells _ hc := Memory.read_write_other s.mem hc v
  input := rfl
  polls := rfl
  pollCount := rfl
  regs _ := rfl
  cond := rfl
  pc := rfl
  untouched := ⟨rfl, rfl, rfl, rfl, rfl⟩

/-- Settles O41: the write is one cell; the status read depends on what the poll finds, which no cell decides. -/
theorem memWriteSetsOneCell : Obligations.MemWriteSetsOneCell := by
  intro s a v hm hne
  refine ⟨writesCell_memWrite hm a v, ?_⟩
  have hpoll : (s.memWrite s.params.kbsrAddr v).polledByte = s.polledByte := rfl
  calc ((s.memWrite s.params.kbsrAddr v).memRead s.params.kbsrAddr).1
      = if (s.memWrite s.params.kbsrAddr v).polledByte.isSome then s.params.kbsrReady else 0x0000#16 :=
        State.memRead_kbsr_fst (s := s.memWrite s.params.kbsrAddr v) (Memory.wf_write hm _ _) hne
    _ = (s.memRead s.params.kbsrAddr).1 := by rw [hpoll, State.memRead_kbsr_fst hm hne]

/-- Settles O43: the ready poll's two writes, the data cell's after the status cell's. -/
theorem keyboardStatusReadWhenReady : Obligations.KeyboardStatusReadWhenReady := by
  intro s b rest hm hne hin hd
  have hb : s.polledByte = some b := by rw [State.polledByte_of_input hin, if_pos hd]
  have hafter := s.afterRead_kbsr.trans (State.pollKeyboard_of_ready hb)
  have hstatus : (s.afterRead s.params.kbsrAddr).mem.read s.params.kbsrAddr = s.params.kbsrReady := by
    simpa [hb] using State.memRead_kbsr_fst hm hne
  have hdata : (s.afterRead s.params.kbsrAddr).mem.read s.params.kbdrAddr = zext b := by
    simp [hafter, hm]
  exact ⟨s.afterRead s.params.kbsrAddr, Prod.ext hstatus rfl, hstatus,
    by rw [hdata, zext, BitVec.toNat_setWidth_of_le (by decide)], fun a => s.afterRead_mem_other _,
    by simp [hafter, hin], s.reg_afterRead _, s.afterRead_cond _, s.afterRead_pc _, untouched_afterRead s _⟩

/-- Settles O44: the poll that finds nothing writes the status cell only. -/
theorem keyboardStatusReadWhenNotReady : Obligations.KeyboardStatusReadWhenNotReady := by
  intro s hm h
  have hafter := s.afterRead_kbsr.trans (State.pollKeyboard_of_not_ready (State.polledByte_eq_none h))
  have hstatus : (s.afterRead s.params.kbsrAddr).mem.read s.params.kbsrAddr = 0x0000#16 := by
    simp [hafter, hm]
  exact ⟨s.afterRead s.params.kbsrAddr, Prod.ext hstatus rfl, hstatus,
    fun a ha => by rw [hafter]; exact Memory.read_write_other s.mem ha _,
    by rw [hafter]; rfl, s.reg_afterRead _, s.afterRead_cond _, s.afterRead_pc _, untouched_afterRead s _⟩

/-- Settles O45: the answer is the listed draw, and the poll takes that draw whatever it says. -/
theorem bothPollAnswersAreAdmitted : Obligations.BothPollAnswersAreAdmitted := by
  intro s b rest d ds hin hpolls
  have hd : s.draw = d := by simp only [State.draw, hpolls]
  have hb : s.polledByte = if d = true then some b else none := hd ▸ State.polledByte_of_input hin
  refine ⟨hb, ?_, ?_⟩
  · rw [State.memRead_snd, State.afterRead_kbsr, State.pollKeyboard_polls, hpolls, List.tail_cons]
  · rw [State.memRead_snd, State.afterRead_kbsr, State.pollKeyboard_input, hb, hin]
    cases d <;> rfl

/-- Settles O47: away from the status cell the fetch reads the cell as the store left it. -/
theorem storeIsSeenByTheNextFetch : Obligations.StoreIsSeenByTheNextFetch := by
  intro s w hm hpc
  have hafter : (s.memWrite s.pc w).afterRead s.pc = s.memWrite s.pc w := State.afterRead_of_ne _ hpc
  calc (s.memWrite s.pc w).fetch.1
      = ((s.memWrite s.pc w).afterRead s.pc).mem.read s.pc := rfl
    _ = (s.mem.write s.pc w).read s.pc := by rw [hafter, State.memWrite_mem]
    _ = w := Memory.read_write_same hm _ _

/-! The canonical form determines the list (20_memory.md R40; log entry 1) -/

theorem Memory.lookup_cons_same (k : Nat) (u : Word) (m : Memory) : Memory.lookup ((k, u) :: m) k = u :=
  if_pos rfl

theorem Memory.lookup_cons_other {k c : Nat} (h : k ≠ c) (u : Word) (m : Memory) :
    Memory.lookup ((k, u) :: m) c = Memory.lookup m c := if_neg h

/-- The first listed cell of a canonical list is not 0x0000, so a list with the same cells lists none above it only. -/
theorem Memory.not_all_gt_of_lookup_eq {k : Nat} {u : Word} {m m' : Memory}
    (hm : Memory.wf ((k, u) :: m) = true)
    (h : ∀ c < 65536, Memory.lookup ((k, u) :: m) c = Memory.lookup m' c) :
    ¬ m'.all (fun c => decide (k < c.1)) = true := by
  intro hall
  obtain ⟨hk, hu, _, _⟩ := Memory.wf_cons.1 hm
  exact hu (((Memory.lookup_cons_same k u m).symm.trans (h k hk)).trans (Memory.lookup_of_all_lt hall))

/-- Two canonical lists with the same cells begin at one address: neither begins below the other. -/
theorem Memory.head_not_lt_of_lookup_eq {k k' : Nat} {u u' : Word} {m m' : Memory}
    (hm : Memory.wf ((k, u) :: m) = true) (hm' : Memory.wf ((k', u') :: m') = true)
    (h : ∀ c < 65536, Memory.lookup ((k, u) :: m) c = Memory.lookup ((k', u') :: m') c) : ¬ k < k' := by
  intro hlt
  obtain ⟨_, _, hall', _⟩ := Memory.wf_cons.1 hm'
  exact Memory.not_all_gt_of_lookup_eq hm h (by simp [hlt, Memory.all_lt_mono hlt.le hall'])

theorem Memory.eq_of_lookup_eq {m m' : Memory} (hm : m.wf = true) (hm' : m'.wf = true)
    (h : ∀ c < 65536, Memory.lookup m c = Memory.lookup m' c) : m = m' := by
  induction m generalizing m' with
  | nil =>
    cases m' with
    | nil => rfl
    | cons _ _ => exact absurd rfl (Memory.not_all_gt_of_lookup_eq hm' fun c hc => (h c hc).symm)
  | cons head m ih =>
    obtain ⟨k, u⟩ := head
    cases m' with
    | nil => exact absurd rfl (Memory.not_all_gt_of_lookup_eq hm h)
    | cons head' m' =>
      obtain ⟨k', u'⟩ := head'
      have hge := Memory.head_not_lt_of_lookup_eq hm hm' h
      have hle := Memory.head_not_lt_of_lookup_eq hm' hm fun c hc => (h c hc).symm
      obtain rfl : k = k' := by omega
      obtain ⟨hk, _, hall, hwf⟩ := Memory.wf_cons.1 hm
      obtain ⟨_, _, hall', hwf'⟩ := Memory.wf_cons.1 hm'
      obtain rfl : u = u' := by simpa only [Memory.lookup_cons_same] using h k hk
      have htails : ∀ c < 65536, Memory.lookup m c = Memory.lookup m' c := by
        intro c hc
        by_cases hkc : k = c
        · subst hkc
          rw [Memory.lookup_of_all_lt hall, Memory.lookup_of_all_lt hall']
        · simpa only [Memory.lookup_cons_other hkc] using h c hc
      rw [ih hwf hwf' htails]

/-- Settles O46: every address below 65536 is that of a word. -/
theorem canonicalMemoryIsDeterminedByItsCells : Obligations.CanonicalMemoryIsDeterminedByItsCells := by
  intro m m' hm hm' h
  refine Memory.eq_of_lookup_eq hm hm' fun c hc => ?_
  have hcell := h (BitVec.ofNat 16 c)
  rwa [Memory.read, Memory.read, BitVec.toNat_ofNat, Nat.mod_eq_of_lt hc] at hcell

/-! The cells an instruction writes (20_memory.md R47) -/

/-- Memory Unit reads change no cell but the two device cells (R44). -/
theorem Reads.mem_other (h : Reads s m) (hs : a ≠ s.params.kbsrAddr) (hd : a ≠ s.params.kbdrAddr) :
    m.mem.read a = s.mem.read a := by
  induction h with
  | refl => rfl
  | read c hm ih => exact (State.afterRead_mem_other _ c (hm.params ▸ hs) (hm.params ▸ hd)).trans ih

/-- No TRAP writes a cell (R47). -/
theorem cellsWritten_decodeTrap (s : State) (v : Byte) : cellsWritten s (decodeTrap v) = [] := by
  unfold decodeTrap
  split <;> rfl

/-- A well-formed instruction leaves every cell that R47 does not list for it. -/
theorem exec_mem_of_not_mem_cellsWritten (hi : i.wf = true) (h : exec i s = .next t)
    (ha : a ∉ cellsWritten s i) : t.mem.read a = s.mem.read a := by
  cases i with
  | br n z p off => cases h; split <;> rfl
  | addReg | addImm | andReg | andImm | not | lea | jmp | jsr | jsrr | rsv8 | rsvD => cases h; rfl
  | ld | ldr =>
    obtain ⟨hs, hd⟩ : a ≠ s.params.kbsrAddr ∧ a ≠ s.params.kbdrAddr := by simpa [cellsWritten] using ha
    cases h
    exact (Reads.read _ .refl).mem_other hs hd
  | ldi =>
    obtain ⟨hs, hd⟩ : a ≠ s.params.kbsrAddr ∧ a ≠ s.params.kbdrAddr := by simpa [cellsWritten] using ha
    cases h
    exact (Reads.read _ (.read _ .refl)).mem_other hs hd
  | st | str =>
    cases h
    exact Memory.read_write_other s.mem (List.ne_of_not_mem_cons ha) _
  | sti sr off =>
    obtain ⟨hptr, hdev⟩ := List.ne_and_not_mem_of_not_mem_cons ha
    obtain ⟨hs, hd⟩ : a ≠ s.params.kbsrAddr ∧ a ≠ s.params.kbdrAddr := by simpa using hdev
    cases h
    exact (Memory.read_write_other _ hptr _).trans ((Reads.read _ .refl).mem_other hs hd)
  | trapGetc =>
    obtain ⟨x, rest, _, rfl⟩ := serviceGetc_next h
    simp
  | trapIn =>
    obtain ⟨x, rest, _, rfl⟩ := serviceIn_next h
    simp
  | trapOut | trapPuts | trapPutsp | trapHalt => cases h; simp
  | trap v =>
    have hu : unknownVector v s = .next t := execTrap_of_wf hi s ▸ h
    cases hu
    rfl

/-- Settles O36: a TRAP term, ill-formed ones too, runs as the instruction of its vector, which lists no cell. -/
theorem onlyTheListedCellsAreWritten : Obligations.OnlyTheListedCellsAreWritten := by
  intro i s t a h ha
  cases i
  case trap v =>
    rw [exec_trap_eq_exec_decodeTrap] at h
    exact exec_mem_of_not_mem_cellsWritten (decodeTrap_wf v) h (cellsWritten_decodeTrap s v ▸ List.not_mem_nil)
  all_goals exact exec_mem_of_not_mem_cellsWritten rfl h ha

end Sys2Proof.Machine
end

section
/-! PROOF. The encoding (30_encoding.md). A word decodes to a well-formed instruction exactly when it agrees with the
instruction's own word on the bits that the decoder reads (`decode_eq_iff`); the statements about the decoder and
the encoder are read off from it. -/

namespace Sys2Proof

variable {w u m : Word} {i : Instr}

/-! Words that agree under a mask -/

theorem getLsbD_eq_of_and_eq (h : w &&& m = u &&& m) {k : Nat} (hm : m.getLsbD k = true) :
    w.getLsbD k = u.getLsbD k := by
  simpa [hm] using getLsbD_of_and_eq h hm

theorem extractLsb'_eq_of_and_eq (h : w &&& m = u &&& m) {start len : Nat}
    (hm : m.extractLsb' start len = BitVec.allOnes len) : w.extractLsb' start len = u.extractLsb' start len := by
  have hfield := congrArg (BitVec.extractLsb' start len) h
  simpa only [BitVec.extractLsb'_and, hm, BitVec.and_allOnes] using hfield

/-- Agreement under a mask is agreement under every part of it. -/
theorem and_eq_and_of_and_eq_and {m' : Word} (h : w &&& m = u &&& m) (hsub : m' &&& m = m') :
    w &&& m' = u &&& m' := by
  rw [← hsub, BitVec.and_comm m', ← BitVec.and_assoc, h, BitVec.and_assoc]

/-! The fields of the encoder's word shapes -/

@[simp] theorem extractLsb'_word439_reg (op : BitVec 4) (a : BitVec 3) (x : BitVec 9) :
    (word439 op a x).extractLsb' 9 3 = a :=
  (BitVec.extractLsb'_append_eq_of_le (by decide)).trans BitVec.extractLsb'_append_eq_right

@[simp] theorem extractLsb'_word439_low (op : BitVec 4) (a : BitVec 3) (x : BitVec 9) :
    (word439 op a x).extractLsb' 0 9 = x :=
  BitVec.extractLsb'_append_eq_right

@[simp] theorem extractLsb'_word4336_reg (op : BitVec 4) (a b : BitVec 3) (x : BitVec 6) :
    (word4336 op a b x).extractLsb' 9 3 = a :=
  (BitVec.extractLsb'_append_eq_of_le (by decide)).trans
    ((BitVec.extractLsb'_append_eq_of_le (by decide)).trans BitVec.extractLsb'_append_eq_right)

@[simp] theorem extractLsb'_word4336_reg2 (op : BitVec 4) (a b : BitVec 3) (x : BitVec 6) :
    (word4336 op a b x).extractLsb' 6 3 = b :=
  (BitVec.extractLsb'_append_eq_of_le (by decide)).trans BitVec.extractLsb'_append_eq_right

@[simp] theorem extractLsb'_word4336_low (op : BitVec 4) (a b : BitVec 3) (x : BitVec 6) :
    (word4336 op a b x).extractLsb' 0 6 = x :=
  BitVec.extractLsb'_append_eq_right

/-- SR2 of an operate word in register form. -/
@[simp] theorem extractLsb'_word4336_sr2 (op : BitVec 4) (a b c d : BitVec 3) :
    (word4336 op a b (c ++ d)).extractLsb' 0 3 = d :=
  (BitVec.extractLsb'_append_eq_of_add_le (xlo := c ++ d) (by decide)).trans BitVec.extractLsb'_append_eq_right

/-- The immediate of an operate word in immediate form. -/
@[simp] theorem extractLsb'_word4336_imm5 (op : BitVec 4) (a b : BitVec 3) (c : BitVec 1) (x : BitVec 5) :
    (word4336 op a b (c ++ x)).extractLsb' 0 5 = x :=
  (BitVec.extractLsb'_append_eq_of_add_le (xlo := c ++ x) (by decide)).trans BitVec.extractLsb'_append_eq_right

@[simp] theorem extractLsb'_word4111_low (op : BitVec 4) (a : BitVec 1) (x : BitVec 11) :
    (word4111 op a x).extractLsb' 0 11 = x :=
  BitVec.extractLsb'_append_eq_right

@[simp] theorem extractLsb'_word448_low (op x : BitVec 4) (v : Byte) : (word448 op x v).extractLsb' 0 8 = v :=
  BitVec.extractLsb'_append_eq_right

/-! The TRAP rows (section 6) -/

theorem decodeTrap_of_wf {v : Byte} (hv : (Instr.trap v).wf = true) : decodeTrap v = .trap v := by
  simp only [decodeTrap, Machine.ofVector_of_wf hv]

theorem encode_decodeTrap (v : Byte) : encode (decodeTrap v) = encodeTrap v := by
  cases hv : Service.ofVector v with
  | none => simp only [decodeTrap, hv, encode]
  | some k =>
    rw [Service.ofVector_eq_some.1 hv]
    cases k <;> rfl

theorem readBits_decodeTrap (v : Byte) : (decodeTrap v).readBits = 0xF0FF#16 := by
  unfold decodeTrap
  split <;> rfl

/-- Bits 11:8 of a TRAP word are ignored (R67). -/
theorem decode_of_and_eq_encodeTrap {v : Byte} (h : w &&& 0xF0FF#16 = encodeTrap v &&& 0xF0FF#16) :
    decode w = decodeTrap v := by
  have hbit {k} := getLsbD_eq_of_and_eq h (k := k)
  have hfield {start len} := extractLsb'_eq_of_and_eq h (start := start) (len := len)
  simp [decode, trapVect8, encodeTrap, hbit, hfield, getLsbD_word448, -BitVec.getLsbD_eq_getElem]

/-! Decoding and encoding -/

/-- A word that agrees with an instruction's own word on the bits read for it decodes to it: the class bits pick the
instruction's arm of the decoder, and each field is the operand that the encoder wrote there (R63, R66, R67). -/
theorem decode_of_and_eq_encode (hi : i.wf = true) (h : w &&& i.readBits = encode i &&& i.readBits) :
    decode w = i := by
  have hbit {k} := getLsbD_eq_of_and_eq h (k := k)
  have hfield {start len} := extractLsb'_eq_of_and_eq h (start := start) (len := len)
  cases i with
  | br | ld | st | ldi | sti | lea =>
    simp only [encode, Instr.readBits] at hbit hfield
    simp [decode, field11_9, pcOffset9, hbit, hfield, getLsbD_word439, getLsbD_nzp, -BitVec.getLsbD_eq_getElem]
  | addReg | addImm | andReg | andImm =>
    simp only [encode, Instr.readBits] at hbit hfield
    simp [decode, field11_9, field8_6, field2_0, imm5, hbit, hfield, getLsbD_word4336, getLsbD_low33, getLsbD_low15,
      -BitVec.getLsbD_eq_getElem]
  | ldr | str | not | jmp | jsrr =>
    simp only [encode, Instr.readBits] at hbit hfield
    simp [decode, field11_9, field8_6, offset6, hbit, hfield, getLsbD_word4336, -BitVec.getLsbD_eq_getElem]
  | jsr =>
    simp only [encode, Instr.readBits] at hbit hfield
    simp [decode, pcOffset11, hbit, hfield, getLsbD_word4111, -BitVec.getLsbD_eq_getElem]
  | rsv8 | rsvD =>
    simp only [encode, Instr.readBits] at hbit
    simp [decode, hbit, getLsbD_word448, -BitVec.getLsbD_eq_getElem]
  | trapGetc | trapOut | trapPuts | trapIn | trapPutsp | trapHalt => exact decode_of_and_eq_encodeTrap h
  | trap v => exact (decode_of_and_eq_encodeTrap h).trans (decodeTrap_of_wf hi)

/-- Re-encoding a decoded word writes every bit that was read: a class bit is that of the decoder's arm, and an
operand's bit is that of the field it came from (R63, R69). -/
theorem encode_decode_and_readBits (w : Word) :
    encode (decode w) &&& (decode w).readBits = w &&& (decode w).readBits := by
  refine eq_of_bits fun k hk => ?_
  unfold decode
  split
  case h_1 | h_3 | h_4 | h_11 | h_12 | h_15 => -- BR, LD, ST, LDI, STI, LEA
    simp only [encode, Instr.readBits, field11_9, pcOffset9, Reg.bits_ofBits, BitVec.getLsbD_and, getLsbD_word439,
      getLsbD_nzp]
    interval_cases k <;> simp [*, -BitVec.getLsbD_eq_getElem]
  case h_2 | h_6 => -- ADD and AND, each in two forms
    split
    all_goals
      simp only [encode, Instr.readBits, field11_9, field8_6, field2_0, imm5, Reg.bits_ofBits, BitVec.getLsbD_and,
        getLsbD_word4336, getLsbD_low33, getLsbD_low15]
      interval_cases k <;> simp [*, -BitVec.getLsbD_eq_getElem]
  case h_5 => -- JSR and JSRR
    split
    all_goals
      simp only [encode, Instr.readBits, field8_6, pcOffset11, Reg.bits_ofBits, BitVec.getLsbD_and, getLsbD_word4336,
        getLsbD_word4111]
      interval_cases k <;> simp [*, -BitVec.getLsbD_eq_getElem]
  case h_7 | h_8 | h_10 | h_13 => -- LDR, STR, NOT, JMP
    simp only [encode, Instr.readBits, field11_9, field8_6, offset6, Reg.bits_ofBits, BitVec.getLsbD_and,
      getLsbD_word4336]
    interval_cases k <;> simp [*, -BitVec.getLsbD_eq_getElem]
  case h_9 | h_14 => -- the reserved classes
    simp only [encode, Instr.readBits, BitVec.getLsbD_and, getLsbD_word448]
    interval_cases k <;> simp [*, -BitVec.getLsbD_eq_getElem]
  case h_16 => -- TRAP
    simp only [encode_decodeTrap, readBits_decodeTrap, encodeTrap, trapVect8, BitVec.getLsbD_and, getLsbD_word448]
    interval_cases k <;> simp [*, -BitVec.getLsbD_eq_getElem]

/-- The decoder's specification: a word decodes to a well-formed instruction exactly when it agrees with the
instruction's own word on the bits read for it (R63, R67, R69). -/
theorem decode_eq_iff (hi : i.wf = true) :
    decode w = i ↔ w &&& i.readBits = encode i &&& i.readBits := by
  refine ⟨?_, decode_of_and_eq_encode hi⟩
  rintro rfl
  exact (encode_decode_and_readBits w).symm

/-- Settles O1: a word agrees with itself. -/
theorem decodeAfterEncodeIsIdentity : Obligations.DecodeAfterEncodeIsIdentity :=
  fun _ hi => (decode_eq_iff hi).2 rfl

/-- Settles O2: what the decoder answers is well-formed and agrees with the word on the bits read. -/
theorem encodeAfterDecodeKeepsReadBits : Obligations.EncodeAfterDecodeKeepsReadBits :=
  fun w => ⟨Machine.decode_wf w, encode_decode_and_readBits w⟩

/-- Settles O3: v decodes to the instruction of w exactly when it agrees with that instruction's word, which agrees
with w. -/
theorem decodeIgnoresExactlyTheIgnoredBits : Obligations.DecodeIgnoresExactlyTheIgnoredBits := by
  intro w v
  rw [decode_eq_iff (Machine.decode_wf w), encode_decode_and_readBits]

/-! The rows of the opcode table (section 6) -/

theorem classRow_mem_classRows (i : Instr) : i.classRow ∈ classRows := by
  cases i <;> simp [Instr.classRow, classRows]

open Laws.EncodingRow in
/-- A well-formed instruction's own word belongs to its rows. -/
theorem rows_have_encode : ∀ i : Instr, Statement i :=
  Instr.rec (motive := Statement) br addReg addImm ld st jsrr jsr andReg andImm ldr str rsv8 not ldi sti jmp rsvD lea
    trapGetc trapOut trapPuts trapIn trapPutsp trapHalt trap

/-- The fixed bits of an instruction's rows are bits that the decoder reads. -/
theorem row_mask_and_readBits (i : Instr) :
    i.row.mask &&& i.readBits = i.row.mask ∧ i.classRow.mask &&& i.readBits = i.classRow.mask := by
  cases i <;> simp only [Instr.row, Instr.classRow, Instr.readBits] <;> decide

/-- A word belongs to every row whose fixed bits it shares with a word of that row. -/
theorem Row.has_of_and_eq {r : Row} (h : w &&& m = u &&& m) (hsub : r.mask &&& m = r.mask) (hu : r.has u) :
    r.has w :=
  (and_eq_and_of_and_eq_and h hsub).trans hu

/-- Two different class rows fix a common bit differently (section 6). -/
theorem classRows_conflict : ∀ r ∈ classRows, ∀ q ∈ classRows, r ≠ q →
    r.pattern &&& q.mask ≠ q.pattern &&& r.mask := by
  decide

theorem eq_of_mem_classRows_of_has {r q : Row} (hr : r ∈ classRows) (hq : q ∈ classRows) (hrw : r.has w)
    (hqw : q.has w) : r = q := by
  by_contra hne
  refine classRows_conflict r hr q hq hne ?_
  rw [← hrw, ← hqw, BitVec.and_assoc, BitVec.and_assoc, BitVec.and_comm r.mask]

/-- Settles O4: the instruction's own word lies in its rows, and the word agrees with it on all bits the rows fix;
the class rows conflict pairwise, so no other has the word. -/
theorem opcodeTableRowsPartitionTheWords : Obligations.OpcodeTableRowsPartitionTheWords := by
  intro w
  have hagree := encode_decode_and_readBits w
  obtain ⟨hrow, hclass⟩ := rows_have_encode (decode w) (Machine.decode_wf w)
  obtain ⟨hsub, hclassSub⟩ := row_mask_and_readBits (decode w)
  have hclassHas := Row.has_of_and_eq hagree.symm hclassSub hclass
  refine ⟨classRow_mem_classRows _, Row.has_of_and_eq hagree.symm hsub hrow, fun r hr => ⟨fun hrw => ?_, ?_⟩⟩
  · exact eq_of_mem_classRows_of_has hr (classRow_mem_classRows _) hrw hclassHas
  · rintro rfl
    exact hclassHas

/-- Settles O5, by running the decoder on the eleven words. -/
theorem specExampleWordsDecode : Obligations.SpecExampleWordsDecode := by
  unfold Obligations.SpecExampleWordsDecode
  decide

end Sys2Proof
end

section
/-! PROOF. Progress (40_dispatcher.md R69, R86, R87): only a GETC or IN with no input byte stops `exec`, and a cycle
turns that stop into the hold. -/

namespace Sys2Proof.Machine

/-- Settles O39: GETC and IN go by whether the input has a byte; every other instruction's meaning is a next state. -/
theorem execStopsOnlyForWantOfInput : Obligations.ExecStopsOnlyForWantOfInput := by
  intro i s hi
  have hlink : s.trapLink.input = s.input := s.trapLink_input
  cases i with
  | trapGetc =>
    cases hin : s.input with
    | nil => exact .inr ⟨serviceGetc_nil (hlink.trans hin), .inl rfl, rfl⟩
    | cons b rest => exact .inl ⟨_, serviceGetc_cons (hlink.trans hin)⟩
  | trapIn =>
    cases hin : s.input with
    | nil => exact .inr ⟨serviceIn_nil (hlink.trans hin), .inr rfl, rfl⟩
    | cons b rest => exact .inl ⟨_, serviceIn_cons (hlink.trans hin)⟩
  | trap v => exact .inl ⟨_, execTrap_of_wf hi s⟩
  | _ => exact .inl ⟨_, rfl⟩

/-- A cycle always answers a next state: the decoded instruction's, or the state before it, held (R69, R87). -/
theorem exists_cycle_eq_next (s : State) : ∃ t, cycle s = .next t := by
  rcases execStopsOnlyForWantOfInput (decode s.fetch.1) s.fetch.2 (decode_wf _) with ⟨t, ht⟩ | ⟨hhold, _, _⟩
  · exact ⟨t, holdAt_eq_next.2 (.inl ht)⟩
  · exact ⟨s, holdAt_eq_next.2 (.inr ⟨hhold, rfl⟩)⟩

/-- Settles O51: with no move of the host, or an idle one, a step is a cycle; the other two moves are steps. -/
theorem runningMachineAlwaysSteps : Obligations.RunningMachineAlwaysSteps := by
  intro s hr
  match hm : s.hostMoves with
  | [] =>
    rw [step_eq_cycle hr (.inl ⟨hm, rfl⟩)]
    exact exists_cycle_eq_next s
  | .idle :: rest =>
    rw [step_eq_cycle hr (.inr ⟨rest, hm, rfl⟩)]
    exact exists_cycle_eq_next _
  | .supply b :: rest => simp [step, hr, advance, hm]
  | .terminate :: rest => simp [step, hr, advance, hm]

end Sys2Proof.Machine
end

section
/-! PROOF. The dispatcher (40_dispatcher.md): the reserved classes, the cycle as exec of the decoded instruction, and
the hold of GETC and IN. -/

namespace Sys2Proof.Machine
open Sys2Proof.Spec

variable {s b : State} {i : Instr}

/-- Settles O15: bits 15:12 are all that the decoder reads of a reserved word, and a reserved class is no effect. -/
theorem reservedClassesDoNothing : Obligations.ReservedClassesDoNothing :=
  ⟨fun _ h => (decode_eq_iff (i := .rsv8) rfl).2 h, fun _ h => (decode_eq_iff (i := .rsvD) rfl).2 h,
    fun _ => ⟨rfl, rfl⟩⟩

/-- With no move of the host or an idle one, a step runs the fetched instruction on the state that the handlers see,
or holds (R80, R81, R87). -/
theorem step_eq_holdAt_exec (hr : s.run = .running) (hb : BeforeCycle s b) :
    step s = holdAt b (exec (fetched b) (seen b)) :=
  step_eq_cycle hr hb

/-- Settles O50: the step is exec's answer but for the hold, and off the status cell the fetch has no side effect. -/
theorem stepRunsTheDecodedInstruction : Obligations.StepRunsTheDecodedInstruction := by
  rintro s b _ hr _ hb rfl
  have hstep := step_eq_holdAt_exec hr hb
  refine ⟨fun t hnext => ?_, fun hhold => ?_, fun hpc => ?_⟩
  · rw [hstep, hnext, holdAt_next]
  · rw [hstep, hhold, holdAt_inputHold]
  · have hread := memReadElsewhereChangesNothing b b.pc hpc
    exact ⟨by rw [fetched, hread], by rw [seen, hread]⟩

/-- GETC and IN stop when the input has no byte (R87). -/
theorem exec_eq_inputHold (hi : i = .trapGetc ∨ i = .trapIn) (hin : s.input = []) :
    exec i s = .fault .inputHold := by
  have hlink : s.trapLink.input = [] := s.trapLink_input.trans hin
  rcases hi with rfl | rfl
  · exact serviceGetc_nil hlink
  · exact serviceIn_nil hlink

/-- The fetch supplies no byte: its poll only takes one (20_memory.md R44). -/
theorem seen_input_eq_nil (hin : s.input = []) : (seen s).input = [] :=
  List.suffix_nil.1 (hin ▸ s.afterRead_input_suffix s.pc)

/-- Settles O53: the input is still empty after the fetch, so the cycle holds. -/
theorem heldCycleChangesNothing : Obligations.HeldCycleChangesNothing := by
  intro s hr hm hin hi
  have hhold := exec_eq_inputHold hi (seen_input_eq_nil hin)
  rw [step_eq_holdAt_exec hr (.inl ⟨hm, rfl⟩), hhold, holdAt_inputHold]

end Sys2Proof.Machine
end

section
/-! PROOF. The operate instructions (41_operate.md): the decoder's arm for each of the five rows, the fields as numbers,
and the flag-updating write that all five end in. -/

namespace Sys2Proof

variable {w : Word}

/-! The fields as numbers (30_encoding.md R63; 00_scope.md, section 4) -/

theorem toNat_extractLsb'_eq_field (w : Word) (hi lo : Nat) :
    (w.extractLsb' lo (hi + 1 - lo)).toNat = Spec.field w hi lo := by
  rw [BitVec.extractLsb'_toNat, Nat.shiftRight_eq_div_pow, Spec.field]

theorem number_eq_toNat_bits (r : Reg) : Spec.number r = r.bits.toNat := by cases r <;> rfl

theorem number_ofBits (b : BitVec 3) : Spec.number (Reg.ofBits b) = b.toNat := by
  rw [number_eq_toNat_bits, Reg.bits_ofBits]

theorem number_field11_9 (w : Word) : Spec.number (field11_9 w) = Spec.field w 11 9 :=
  (number_ofBits _).trans (toNat_extractLsb'_eq_field w 11 9)

theorem number_field8_6 (w : Word) : Spec.number (field8_6 w) = Spec.field w 8 6 :=
  (number_ofBits _).trans (toNat_extractLsb'_eq_field w 8 6)

theorem number_field2_0 (w : Word) : Spec.number (field2_0 w) = Spec.field w 2 0 :=
  (number_ofBits _).trans (toNat_extractLsb'_eq_field w 2 0)

theorem toNat_imm5 (w : Word) : (imm5 w).toNat = Spec.field w 4 0 := toNat_extractLsb'_eq_field w 4 0

/-! The decoder on the rows of the operate instructions: the row's bits pick the arm (R61, R63) -/

theorem decode_eq_addReg (h : w &&& 0xF020#16 = 0x1000#16) :
    decode w = .addReg (field11_9 w) (field8_6 w) (field2_0 w) := by
  simp [decode, getLsbD_of_and_eq h, -BitVec.getLsbD_eq_getElem]

theorem decode_eq_addImm (h : w &&& 0xF020#16 = 0x1020#16) :
    decode w = .addImm (field11_9 w) (field8_6 w) (imm5 w) := by
  simp [decode, getLsbD_of_and_eq h, -BitVec.getLsbD_eq_getElem]

theorem decode_eq_andReg (h : w &&& 0xF020#16 = 0x5000#16) :
    decode w = .andReg (field11_9 w) (field8_6 w) (field2_0 w) := by
  simp [decode, getLsbD_of_and_eq h, -BitVec.getLsbD_eq_getElem]

theorem decode_eq_andImm (h : w &&& 0xF020#16 = 0x5020#16) :
    decode w = .andImm (field11_9 w) (field8_6 w) (imm5 w) := by
  simp [decode, getLsbD_of_and_eq h, -BitVec.getLsbD_eq_getElem]

theorem decode_eq_not (h : w &&& 0xF000#16 = 0x9000#16) : decode w = .not (field11_9 w) (field8_6 w) := by
  simp [decode, getLsbD_of_and_eq h, -BitVec.getLsbD_eq_getElem]

end Sys2Proof

namespace Sys2Proof.Machine
open Sys2Proof.Spec

variable {s m : State}

/-- Both sides are the 16-bit value of the field's signed value (00_scope.md R7). -/
theorem sext_eq_signed {n : Nat} (v : BitVec n) : sext v = signed v := rfl

theorem Reads.hostMoves (h : Reads s m) : m.hostMoves = s.hostMoves := by induction h <;> simp [*]

/-- The flag-updating write after Memory Unit reads, if any, and what it leaves unchanged (10_state.md R27, R28). -/
theorem Reads.writesReg_setResult (h : Reads s m) (dr : Reg) (v : Word) :
    WritesReg s m (m.setResult dr v) dr v where
  result := by simp
  flags := m.setResult_cond dr v ▸ flagsOf_spec v
  others r hr := by simp [hr, h.reg r]
  pc := h.pc
  memory := ⟨fun _ => rfl, rfl, rfl, rfl⟩
  untouched := ⟨h.ir, h.run, h.out, h.hostMoves, h.params⟩

/-! The operate obligations -/

/-- Settles O6: `+` on words is the sum of their numbers mod 2^16 (00_scope.md R9). -/
theorem addRegister : Obligations.AddRegister := by
  refine ⟨fun w h => ?_, fun dr sr1 sr2 s => ?_⟩
  · exact ⟨_, _, _, decode_eq_addReg h, number_field11_9 w, number_field8_6 w, number_field2_0 w⟩
  · exact ⟨_, s.reg sr1 + s.reg sr2, rfl, BitVec.toNat_add _ _, Reads.refl.writesReg_setResult dr _⟩

/-- Settles O7: the second operand of O6's sum is the immediate's signed value (R7). -/
theorem addImmediate : Obligations.AddImmediate := by
  refine ⟨fun w h => ?_, fun dr sr1 imm s => ?_⟩
  · exact ⟨_, _, _, decode_eq_addImm h, number_field11_9 w, number_field8_6 w, toNat_imm5 w⟩
  · rw [← sext_eq_signed]
    exact ⟨_, s.reg sr1 + sext imm, rfl, BitVec.toNat_add _ _, Reads.refl.writesReg_setResult dr _⟩

/-- Settles O8: `&&&` on words is AND of the bits at each place. -/
theorem andRegister : Obligations.AndRegister := by
  refine ⟨fun w h => ?_, fun dr sr1 sr2 s => ?_⟩
  · exact ⟨_, _, _, decode_eq_andReg h, number_field11_9 w, number_field8_6 w, number_field2_0 w⟩
  · exact ⟨_, s.reg sr1 &&& s.reg sr2, rfl, fun _ => BitVec.getLsbD_and, Reads.refl.writesReg_setResult dr _⟩

/-- Settles O9: the second operand of O8's AND is the immediate's signed value (R7). -/
theorem andImmediate : Obligations.AndImmediate := by
  refine ⟨fun w h => ?_, fun dr sr1 imm s => ?_⟩
  · exact ⟨_, _, _, decode_eq_andImm h, number_field11_9 w, number_field8_6 w, toNat_imm5 w⟩
  · rw [← sext_eq_signed]
    exact ⟨_, s.reg sr1 &&& sext imm, rfl, fun _ => BitVec.getLsbD_and, Reads.refl.writesReg_setResult dr _⟩

/-- Settles O10: `~~~` on words inverts each of the 16 bits. -/
theorem notComplement : Obligations.NotComplement := by
  refine ⟨fun w h => ?_, fun dr sr s => ?_⟩
  · exact ⟨_, _, decode_eq_not h, number_field11_9 w, number_field8_6 w⟩
  · have hbits (k : Nat) (hk : k < 16) : (~~~ s.reg sr).getLsbD k = !(s.reg sr).getLsbD k := by
      simp only [BitVec.getLsbD_not, hk, decide_true, Bool.true_and]
    exact ⟨_, ~~~ s.reg sr, rfl, hbits, Reads.refl.writesReg_setResult dr _⟩

end Sys2Proof.Machine
end

section
/-! PROOF. Control transfer (42_control.md): the decoder's arm for each of the four rows, BR's test flag by flag, and
the writes of PC and of R7 that the four instructions are made of. -/

namespace Sys2Proof

variable {w : Word}

/-! The fields as numbers (30_encoding.md R63) -/

theorem toNat_getLsbD_eq_field (w : Word) (k : Nat) : (w.getLsbD k).toNat = Spec.field w k k := by
  rw [BitVec.getLsbD, Nat.toNat_testBit, Spec.field, Nat.add_sub_cancel_left, Nat.pow_one]

theorem toNat_pcOffset9 (w : Word) : (pcOffset9 w).toNat = Spec.field w 8 0 := toNat_extractLsb'_eq_field w 8 0

theorem toNat_pcOffset11 (w : Word) : (pcOffset11 w).toNat = Spec.field w 10 0 := toNat_extractLsb'_eq_field w 10 0

/-! The decoder on the rows of the control instructions: the row's bits pick the arm (R61, R63) -/

theorem decode_eq_br (h : w &&& 0xF000#16 = 0x0000#16) :
    decode w = .br (w.getLsbD 11) (w.getLsbD 10) (w.getLsbD 9) (pcOffset9 w) := by
  simp [decode, getLsbD_of_and_eq h, -BitVec.getLsbD_eq_getElem]

theorem decode_eq_jmp (h : w &&& 0xF000#16 = 0xC000#16) : decode w = .jmp (field8_6 w) := by
  simp [decode, getLsbD_of_and_eq h, -BitVec.getLsbD_eq_getElem]

theorem decode_eq_jsr (h : w &&& 0xF800#16 = 0x4800#16) : decode w = .jsr (pcOffset11 w) := by
  simp [decode, getLsbD_of_and_eq h, -BitVec.getLsbD_eq_getElem]

theorem decode_eq_jsrr (h : w &&& 0xF800#16 = 0x4000#16) : decode w = .jsrr (field8_6 w) := by
  simp [decode, getLsbD_of_and_eq h, -BitVec.getLsbD_eq_getElem]

end Sys2Proof

namespace Sys2Proof.Machine
open Sys2Proof.Spec

variable {s m : State} {pc : Word} {link : Option Word}

/-- BR's mask test, flag by flag: n selects NEG, z ZERO, p POS (10_state.md R26; 42_control.md R100). -/
theorem State.branchTaken_eq (s : State) (n z p : Bool) : s.branchTaken n z p =
    (n && s.cond.getLsbD 2 || z && s.cond.getLsbD 1 || p && s.cond.getLsbD 0) := by
  have hmask : ∀ (n z p : Bool) (c : BitVec 3), (condField n z p &&& c != 0b000#3) =
      (n && c.getLsbD 2 || z && c.getLsbD 1 || p && c.getLsbD 0) := by decide
  exact hmask n z p s.cond

/-! The frame of a control transfer, one write at a time: nothing written, then the link, then PC -/

theorem jumps_refl (s : State) : Jumps s s s.pc none where
  pc := rfl
  regs r := by split <;> simp [*]
  cond := rfl
  memory := ⟨fun _ => rfl, rfl, rfl, rfl⟩
  untouched := ⟨rfl, rfl, rfl, rfl, rfl⟩

/-- The link writes R7 and nothing else (10_state.md R22). -/
theorem jumps_link (s : State) : Jumps s s.link s.pc (some s.pc) where
  pc := rfl
  regs := s.reg_link
  cond := rfl
  memory := ⟨fun _ => rfl, rfl, rfl, rfl⟩
  untouched := ⟨rfl, rfl, rfl, rfl, rfl⟩

/-- A write of PC redirects the transfer and keeps the rest of its frame (10_state.md R25). -/
theorem jumps_setPc (h : Jumps s m pc link) (target : Word) : Jumps s (m.setPc target) target link where
  pc := rfl
  regs := h.regs
  cond := h.cond
  memory := { h.memory with }
  untouched := { h.untouched with }

/-! The control obligations -/

/-- Settles O11: a BR that is not taken writes nothing, one that is taken writes PC alone. -/
theorem branchOnSelectedFlags : Obligations.BranchOnSelectedFlags := by
  refine ⟨fun w h => ?_, fun n z p off s => ⟨_, rfl, ?_⟩⟩
  · exact ⟨_, _, _, _, decode_eq_br h, toNat_getLsbD_eq_field w 11, toNat_getLsbD_eq_field w 10,
      toNat_getLsbD_eq_field w 9, toNat_pcOffset9 w⟩
  · rw [← s.branchTaken_eq, ← sext_eq_signed]
    split
    · exact jumps_setPc (jumps_refl s) _
    · exact jumps_refl s

/-- Settles O12: JMP writes PC alone, with the base register. -/
theorem jumpToBaseRegister : Obligations.JumpToBaseRegister :=
  ⟨fun w h => ⟨_, decode_eq_jmp h, number_field8_6 w⟩, fun _ s => ⟨_, rfl, jumps_setPc (jumps_refl s) _⟩⟩

/-- Settles O13: the link leaves PC, so the target is taken from the incremented PC still. -/
theorem jumpSubroutineRelative : Obligations.JumpSubroutineRelative := by
  refine ⟨fun w h => ⟨_, decode_eq_jsr h, toNat_pcOffset11 w⟩, fun off s => ⟨_, rfl, ?_⟩⟩
  rw [← sext_eq_signed]
  exact jumps_setPc (jumps_link s) (s.pc + sext off)

/-- Settles O14: the base is read through the link, which JSRR R7 sees (90_conflicts.md C5). -/
theorem jumpSubroutineRegister : Obligations.JumpSubroutineRegister := by
  refine ⟨fun w h => ⟨_, decode_eq_jsrr h, number_field8_6 w⟩, fun b s => ⟨_, rfl, ?_⟩⟩
  rw [← s.reg_link b]
  exact jumps_setPc (jumps_link s) (s.link.reg b)

end Sys2Proof.Machine
end

section
/-! PROOF. The loads and the address load (43_load.md): the decoder's arm for each of the four rows, and the load
through the Memory Unit that LD, LDI and LDR end in. -/

namespace Sys2Proof

variable {w : Word}

/-! The fields as numbers (30_encoding.md R63) -/

theorem toNat_offset6 (w : Word) : (offset6 w).toNat = Spec.field w 5 0 := toNat_extractLsb'_eq_field w 5 0

/-! The decoder on the rows of the loads: the row's bits pick the arm (R61, R63) -/

theorem decode_eq_ld (h : w &&& 0xF000#16 = 0x2000#16) : decode w = .ld (field11_9 w) (pcOffset9 w) := by
  simp [decode, getLsbD_of_and_eq h, -BitVec.getLsbD_eq_getElem]

theorem decode_eq_ldi (h : w &&& 0xF000#16 = 0xA000#16) : decode w = .ldi (field11_9 w) (pcOffset9 w) := by
  simp [decode, getLsbD_of_and_eq h, -BitVec.getLsbD_eq_getElem]

theorem decode_eq_ldr (h : w &&& 0xF000#16 = 0x6000#16) :
    decode w = .ldr (field11_9 w) (field8_6 w) (offset6 w) := by
  simp [decode, getLsbD_of_and_eq h, -BitVec.getLsbD_eq_getElem]

theorem decode_eq_lea (h : w &&& 0xF000#16 = 0xE000#16) : decode w = .lea (field11_9 w) (pcOffset9 w) := by
  simp [decode, getLsbD_of_and_eq h, -BitVec.getLsbD_eq_getElem]

end Sys2Proof

namespace Sys2Proof.Machine
open Sys2Proof.Spec

variable {s m : State}

/-! The load from a cell, after the reads that found its address -/

/-- The register gets what the Memory Unit's read answers; memory and input are as that read left them
(20_memory.md R44). -/
theorem Reads.writesReg_loadFrom (h : Reads s m) (dr : Reg) (ea : Word) :
    WritesReg s (m.memRead ea).2 (m.loadFrom dr ea) dr (m.memRead ea).1 :=
  (h.read ea).writesReg_setResult dr _

/-- Away from the status cell the register gets the stored cell, and nothing is polled (20_memory.md R43). -/
theorem Reads.writesReg_loadFrom_of_ne (h : Reads s m) (dr : Reg) {ea : Word}
    (hea : ea ≠ m.params.kbsrAddr) : WritesReg s m (m.loadFrom dr ea) dr (m.mem.read ea) := by
  simpa only [memReadElsewhereChangesNothing m ea hea] using h.writesReg_loadFrom dr ea

/-! The load obligations -/

/-- Settles O16: one load, from the PC-relative address. -/
theorem loadPcRelative : Obligations.LoadPcRelative := by
  refine ⟨fun w h => ⟨_, _, decode_eq_ld h, number_field11_9 w, toNat_pcOffset9 w⟩,
    fun dr off s => ⟨_, rfl, ?_⟩⟩
  rw [← sext_eq_signed]
  exact ⟨Reads.refl.writesReg_loadFrom dr _, Reads.refl.writesReg_loadFrom_of_ne dr⟩

/-- Settles O17: the load is made from the state that the pointer's read left; away from the status cell that
is the state before it. -/
theorem loadIndirect : Obligations.LoadIndirect := by
  refine ⟨fun w h => ⟨_, _, decode_eq_ldi h, number_field11_9 w, toNat_pcOffset9 w⟩,
    fun dr off s m pointer hread => ?_⟩
  have hexec : exec (.ldi dr off) s = .next (m.loadFrom dr pointer) := by
    simp only [exec, execLdi, State.pcRel, sext_eq_signed, hread]
  have hm : Reads s m := by
    obtain rfl : s.afterRead (s.pc + signed off) = m := congrArg Prod.snd hread
    exact .read _ .refl
  refine ⟨_, hexec, hm.writesReg_loadFrom dr pointer, fun hcell hpointer => ?_⟩
  obtain ⟨rfl, rfl⟩ := Prod.mk.inj ((memReadElsewhereChangesNothing s _ hcell).symm.trans hread)
  exact hm.writesReg_loadFrom_of_ne dr hpointer

/-- Settles O18: one load, from the base register's address. -/
theorem loadBaseOffset : Obligations.LoadBaseOffset := by
  refine ⟨fun w h => ⟨_, _, _, decode_eq_ldr h, number_field11_9 w, number_field8_6 w, toNat_offset6 w⟩,
    fun dr b off s => ⟨_, rfl, ?_⟩⟩
  rw [← sext_eq_signed]
  exact ⟨Reads.refl.writesReg_loadFrom dr _, Reads.refl.writesReg_loadFrom_of_ne dr⟩

/-- Settles O19: the flag-updating write after no read at all. -/
theorem loadEffectiveAddress : Obligations.LoadEffectiveAddress := by
  refine ⟨fun w h => ⟨_, _, decode_eq_lea h, number_field11_9 w, toNat_pcOffset9 w⟩,
    fun dr off s => ⟨_, rfl, ?_⟩⟩
  rw [← sext_eq_signed]
  exact Reads.refl.writesReg_setResult dr (s.pc + sext off)

end Sys2Proof.Machine
end

section
/-! PROOF. The stores (44_store.md): the decoder's arm for each of the three rows, and the write of one cell, after
Memory Unit reads if any, that all three end in. -/

namespace Sys2Proof

variable {w : Word}

/-! The decoder on the rows of the stores: the row's bits pick the arm (30_encoding.md R61, R63) -/

theorem decode_eq_st (h : w &&& 0xF000#16 = 0x3000#16) : decode w = .st (field11_9 w) (pcOffset9 w) := by
  simp [decode, getLsbD_of_and_eq h, -BitVec.getLsbD_eq_getElem]

theorem decode_eq_sti (h : w &&& 0xF000#16 = 0xB000#16) : decode w = .sti (field11_9 w) (pcOffset9 w) := by
  simp [decode, getLsbD_of_and_eq h, -BitVec.getLsbD_eq_getElem]

theorem decode_eq_str (h : w &&& 0xF000#16 = 0x7000#16) :
    decode w = .str (field11_9 w) (field8_6 w) (offset6 w) := by
  simp [decode, getLsbD_of_and_eq h, -BitVec.getLsbD_eq_getElem]

end Sys2Proof

namespace Sys2Proof.Machine
open Sys2Proof.Spec

variable {s m : State} {a v : Word}

/-! The store to a cell, after the reads that found its address -/

theorem reads_of_memRead_eq (h : s.memRead a = (v, m)) : Reads s m := by
  obtain rfl : s.afterRead a = m := congrArg Prod.snd h
  exact .read a .refl

/-- The other cells and the input are as the reads left them, all else as it was before them
(20_memory.md R42, R44). -/
theorem Reads.writesCell_memWrite (h : Reads s m) (hs : s.mem.wf = true) (a v : Word) :
    WritesCell s m (m.memWrite a v) a v :=
  { Machine.writesCell_memWrite (h.mem_wf hs) a v with
    regs := h.reg
    cond := h.cond
    pc := h.pc
    untouched := ⟨h.ir, h.run, h.out, h.hostMoves, h.params⟩ }

/-! The store obligations -/

/-- Settles O20: one write, to the PC-relative address. -/
theorem storePcRelative : Obligations.StorePcRelative := by
  refine ⟨fun w h => ⟨_, _, decode_eq_st h, number_field11_9 w, toNat_pcOffset9 w⟩,
    fun sr off s hs => ⟨_, rfl, ?_⟩⟩
  rw [← sext_eq_signed]
  exact writesCell_memWrite hs (s.pc + sext off) (s.reg sr)

/-- Settles O21: the write is made on the state that the pointer's read left; away from the status cell that
is the state before it. -/
theorem storeIndirect : Obligations.StoreIndirect := by
  refine ⟨fun w h => ⟨_, _, decode_eq_sti h, number_field11_9 w, toNat_pcOffset9 w⟩,
    fun sr off s m pointer hs hread => ?_⟩
  have hexec : exec (.sti sr off) s = .next (m.memWrite pointer (s.reg sr)) := by
    simp only [exec, execSti, State.pcRel, sext_eq_signed, hread]
  have hm : Reads s m := reads_of_memRead_eq hread
  refine ⟨_, hexec, hm.writesCell_memWrite hs pointer (s.reg sr), fun hcell => ?_⟩
  obtain ⟨rfl, rfl⟩ := Prod.mk.inj ((memReadElsewhereChangesNothing s _ hcell).symm.trans hread)
  exact writesCell_memWrite hs (s.mem.read (s.pc + signed off)) (s.reg sr)

/-- Settles O22: one write, to the base register's address. -/
theorem storeBaseOffset : Obligations.StoreBaseOffset := by
  refine ⟨fun w h => ⟨_, _, _, decode_eq_str h, number_field11_9 w, number_field8_6 w, toNat_offset6 w⟩,
    fun sr b off s hs => ⟨_, rfl, ?_⟩⟩
  rw [← sext_eq_signed]
  exact writesCell_memWrite hs (s.reg b + sext off) (s.reg sr)

end Sys2Proof.Machine
end

section
/-! PROOF. TRAP (45_trap.md): the service that a vector selects, and the frame of a service, one update at a time. -/

namespace Sys2Proof

variable {w : Word} {i : Instr} {u v : Byte}

/-! The vector (30_encoding.md R63; 45_trap.md R130) -/

theorem toNat_trapVect8 (w : Word) : (trapVect8 w).toNat = Spec.field w 7 0 := toNat_extractLsb'_eq_field w 7 0

theorem decode_eq_decodeTrap (h : w &&& 0xF000#16 = 0xF000#16) : decode w = decodeTrap (trapVect8 w) := by
  simp [decode, getLsbD_of_and_eq h, -BitVec.getLsbD_eq_getElem]

theorem encodeTrap_injective (h : encodeTrap u = encodeTrap v) : u = v := by
  simpa only [encodeTrap, extractLsb'_word448_low] using congrArg (BitVec.extractLsb' 0 8) h

/-- An instruction whose own word is a TRAP word is selected by that word's vector and by no other. -/
theorem decodeTrap_eq_iff (hi : i.wf = true) (hu : encode i = encodeTrap u) : decodeTrap v = i ↔ v = u := by
  constructor
  · rintro rfl
    exact encodeTrap_injective ((encode_decodeTrap v).symm.trans hu)
  · rintro rfl
    rw [← decodeAfterEncodeIsIdentity i hi, hu, decode_of_and_eq_encodeTrap rfl]

/-- A TRAP word decodes to a service's instruction exactly when its bits 7:0 are the service's vector. -/
theorem decode_eq_service_iff (k : Service) (h : w &&& 0xF000#16 = 0xF000#16) (hi : i.wf = true)
    (hk : encode i = encodeTrap k.vector) : decode w = i ↔ Spec.field w 7 0 = k.vector.toNat := by
  rw [decode_eq_decodeTrap h, decodeTrap_eq_iff hi hk, ← toNat_trapVect8, BitVec.toNat_inj]

theorem recognized_vector (k : Service) : Spec.Recognized k.vector := by
  unfold Spec.Recognized
  cases k <;> decide

/-- A vector outside the six is a row of its own (R137). -/
theorem trap_wf_of_not_recognized (h : ¬ Spec.Recognized v) : (Instr.trap v).wf = true :=
  Option.isNone_iff_eq_none.2 <| Option.eq_none_iff_forall_ne_some.2 fun k hk =>
    h (Service.ofVector_eq_some.1 hk ▸ recognized_vector k)

/-- Settles O23: the word's own vector selects the instruction, so bits 11:8 take no part. -/
theorem trapVectorSelectsTheService : Obligations.TrapVectorSelectsTheService := by
  intro w h
  refine ⟨decode_eq_service_iff .getc h rfl rfl, decode_eq_service_iff .out h rfl rfl,
    decode_eq_service_iff .puts h rfl rfl, decode_eq_service_iff .input h rfl rfl,
    decode_eq_service_iff .putsp h rfl rfl, decode_eq_service_iff .halt h rfl rfl,
    fun hv => ⟨trapVect8 w, ?_, toNat_trapVect8 w⟩⟩
  rw [← toNat_trapVect8] at hv
  rw [decode_eq_decodeTrap h, decodeTrap_of_wf (trap_wf_of_not_recognized hv)]

end Sys2Proof

namespace Sys2Proof.Machine
open Sys2Proof.Spec

variable {s m : State} {bs : List Byte} {run : RunState}

/-! The bytes of one cell (R133, R135) -/

theorem putsBytes_eq_lowCharacter (w : Word) : putsBytes w = [lowCharacter w] := rfl

theorem highByte_eq_zero_iff (w : Word) : highByte w = 0x00#8 ↔ w.toNat < 256 := by
  have hlt := w.isLt
  rw [highByte, ← BitVec.toNat_inj, BitVec.extractLsb'_toNat, Nat.shiftRight_eq_div_pow, BitVec.toNat_ofNat]
  omega

theorem putspBytes_eq_packedCharacters (w : Word) : putspBytes w = packedCharacters w := by
  have hhigh : highByte w = (w >>> 8).setWidth 8 := BitVec.setWidth_ushiftRight_eq_extractLsb.symm
  by_cases h : w.toNat < 256
  · rw [putspBytes, if_pos ((highByte_eq_zero_iff w).2 h), packedCharacters, if_neg (by omega)]
    rfl
  · rw [putspBytes, if_neg (mt (highByte_eq_zero_iff w).1 h), packedCharacters, if_pos (by omega), hhigh]
    rfl

/-! The frame of a service: the link, then one update at a time -/

/-- The link outputs nothing and writes no register but R7 (R130). -/
theorem outputs_trapLink (s : State) : Outputs s s.trapLink [] s.run where
  out := by simp
  run := s.trapLink_run
  regs := s.reg_trapLink
  cond := s.trapLink_cond
  input := s.trapLink_input
  frame := ⟨by simp, s.trapLink_pc, s.trapLink_ir, s.trapLink_polls, s.trapLink_pollCount, s.trapLink_hostMoves,
    s.trapLink_params⟩

theorem outputs_emit (h : Outputs s m bs run) (cs : List Byte) : Outputs s (m.emit cs) (bs ++ cs) run :=
  { h with
    out := by rw [State.emit_out, h.out, List.append_assoc]
    frame := { h.frame with } }

/-- A new run state changes nothing else (10_state.md R31). -/
theorem outputs_endRun (h : Outputs s m bs run) (r : RunState) : Outputs s { m with run := r } bs r :=
  { h with
    run := rfl
    frame := { h.frame with } }

@[simp] theorem reg_with_input (m : State) (rest : List Byte) (r : Reg) :
    ({ m with input := rest } : State).reg r = m.reg r := rfl

/-- After the output the first input byte goes to R0, and under the parameter COND follows it
(R131, R134, R139). -/
theorem inputs_acceptByte {b : Byte} {rest : List Byte} (h : Outputs s m bs s.run) (hin : s.input = b :: rest) :
    Inputs s ({ m with input := rest }.acceptByte b) b bs where
  input := by simpa using hin
  result := by
    rw [State.reg_acceptByte, if_pos rfl, zext, BitVec.toNat_setWidth_of_le (by decide)]
  link := by simpa using h.regs .r7
  others r h0 h7 := by simpa [h0, h7] using h.regs r
  flagsSet hp := by simpa [State.acceptByte_cond, h.frame.params, hp] using flagsOf_spec (zext b)
  flagsKept hp := by simpa [State.acceptByte_cond, h.frame.params, hp] using h.cond
  out := (State.acceptByte_out _ b).trans h.out
  run := (State.acceptByte_run _ b).trans h.run
  frame :=
    { cells := by simpa using h.frame.cells
      pc := (State.acceptByte_pc _ b).trans h.frame.pc
      ir := (State.acceptByte_ir _ b).trans h.frame.ir
      polls := (State.acceptByte_polls _ b).trans h.frame.polls
      pollCount := (State.acceptByte_pollCount _ b).trans h.frame.pollCount
      hostMoves := (State.acceptByte_hostMoves _ b).trans h.frame.hostMoves
      params := (State.acceptByte_params _ b).trans h.frame.params }

/-! The frame of a string service (R133, R135): it ends at a zero cell, and with none it ends the run -/

section Strings
variable (bytes : Word → List Byte)

theorem outputs_putString_of_stringAt_true (h : stringAt bytes s.mem (s.reg .r0) = (bs, true)) :
    Outputs s (s.trapLink.putString bytes) bs s.run := by
  have hput : s.trapLink.putString bytes = s.trapLink.emit bs := by
    simp [State.putString, State.reg_r0_trapLink, h]
  rw [hput]
  exact outputs_emit (outputs_trapLink s) bs

theorem outputs_putString_of_stringAt_false (h : stringAt bytes s.mem (s.reg .r0) = (bs, false)) :
    Outputs s (s.trapLink.putString bytes) bs (.fatal (.stringWrap (s.reg .r0))) := by
  have hput : s.trapLink.putString bytes = (s.trapLink.emit bs).raiseFatal (.stringWrap (s.reg .r0)) := by
    simp [State.putString, State.reg_r0_trapLink, h]
  rw [hput]
  exact outputs_endRun (outputs_emit (outputs_trapLink s) bs) _

/-- A string of n nonzero cells within memory is printed whole. -/
theorem outputs_putString_of_zero {n : Nat} (hn : (s.reg .r0).toNat + n < 65536)
    (hne : ∀ k < n, s.mem.read (s.reg .r0 + BitVec.ofNat 16 k) ≠ 0x0000#16)
    (hz : s.mem.read (s.reg .r0 + BitVec.ofNat 16 n) = 0x0000#16) :
    Outputs s (s.trapLink.putString bytes)
      ((List.range n).flatMap fun k => bytes (s.mem.read (s.reg .r0 + BitVec.ofNat 16 k))) s.run :=
  outputs_putString_of_stringAt_true bytes (scanString_of_zero bytes s.mem _ n (s.reg .r0) (by omega) hne hz)

/-- With no zero cell up to 0xFFFF every cell is printed, and the run ends. -/
theorem outputs_putString_of_nonzero
    (hne : ∀ k, (s.reg .r0).toNat + k < 65536 → s.mem.read (s.reg .r0 + BitVec.ofNat 16 k) ≠ 0x0000#16) :
    Outputs s (s.trapLink.putString bytes)
      ((List.range (65536 - (s.reg .r0).toNat)).flatMap fun k =>
        bytes (s.mem.read (s.reg .r0 + BitVec.ofNat 16 k))) (.fatal (.stringWrap (s.reg .r0))) :=
  outputs_putString_of_stringAt_false bytes
    (scanString_of_nonzero bytes s.mem _ (s.reg .r0) fun k hk => hne k (by omega))

end Strings

/-! The TRAP obligations -/

/-- Settles O27: the scan up to the zero cell, each cell giving its low byte. -/
theorem putsWritesTheString : Obligations.PutsWritesTheString := by
  intro s n hn hne hz
  simp only [List.map_eq_flatMap, ← putsBytes_eq_lowCharacter]
  exact ⟨_, rfl, outputs_putString_of_zero putsBytes hn hne hz⟩

/-- Settles O29: O27's scan, each cell giving its low byte and its high byte unless that is zero. -/
theorem putspWritesThePackedString : Obligations.PutspWritesThePackedString := by
  intro s n hn hne hz
  simp only [← putspBytes_eq_packedCharacters]
  exact ⟨_, rfl, outputs_putString_of_zero putspBytes hn hne hz⟩

/-- Settles O30: both services scan to 0xFFFF and keep what they printed. -/
theorem unterminatedStringIsFatal : Obligations.UnterminatedStringIsFatal := by
  intro s hne
  simp only [List.map_eq_flatMap, ← putsBytes_eq_lowCharacter, ← putspBytes_eq_packedCharacters]
  exact ⟨⟨_, rfl, outputs_putString_of_nonzero putsBytes hne⟩,
    ⟨_, rfl, outputs_putString_of_nonzero putspBytes hne⟩⟩

/-- Settles O25: the link, then the byte, with no output between. -/
theorem getcReadsOneByte : Obligations.GetcReadsOneByte := by
  intro s b rest hin
  exact ⟨_, serviceGetc_cons ((outputs_trapLink s).input.trans hin), inputs_acceptByte (outputs_trapLink s) hin⟩

/-- Settles O26: the link leaves R0, whose low byte is output. -/
theorem outWritesTheLowByteOfR0 : Obligations.OutWritesTheLowByteOfR0 := by
  intro s
  rw [← s.reg_r0_trapLink]
  exact ⟨_, rfl, outputs_emit (outputs_trapLink s) _⟩

/-- Settles O28: the link, the prompt and the echo, then the byte as in O25. -/
theorem inPromptsReadsAndEchoes : Obligations.InPromptsReadsAndEchoes := by
  intro s b rest hin
  have hecho := outputs_emit (outputs_emit (outputs_trapLink s) s.trapLink.params.inPrompt) [b]
  rw [← s.trapLink_params]
  exact ⟨_, serviceIn_cons ((outputs_trapLink s).input.trans hin), inputs_acceptByte hecho hin⟩

/-- Settles O31: the link, the notice, then the run state alone. -/
theorem haltWritesTheNoticeAndStops : Obligations.HaltWritesTheNoticeAndStops := by
  intro s
  rw [← s.trapLink_params]
  exact ⟨_, rfl, outputs_endRun (outputs_emit (outputs_trapLink s) _) .halted⟩

/-- Settles O32: the vector has no service, so there is no link: the diagnostic, then the run state alone. -/
theorem unknownVectorIsFatal : Obligations.UnknownVectorIsFatal := by
  intro v s hv
  exact ⟨_, execTrap_of_wf (trap_wf_of_not_recognized hv) s, rfl, rfl, fun _ => rfl, rfl, rfl,
    ⟨fun _ => rfl, rfl, rfl, rfl, rfl, rfl, rfl⟩⟩

end Sys2Proof.Machine
end

section
/-! PROOF. The host's moves between cycles (60_exceptions.md R154, R166): each is one update of the state, and a byte
that arrives lets a held GETC go on. -/

namespace Sys2Proof.Machine
open Sys2Proof.Spec

variable {s : State} {b : Byte} {bs : List Byte} {rest : List HostMove}

/-! The step of each move -/

theorem step_eq_abort (hr : s.run = .running) (hm : s.hostMoves = .terminate :: rest) :
    step s = .next { s with hostMoves := rest }.abort := by
  simp only [step, if_pos hr, advance, hm]

theorem step_eq_supply (hr : s.run = .running) (hm : s.hostMoves = .supply b :: rest) :
    step s = .next ({ s with hostMoves := rest }.supply b) := by
  simp only [step, if_pos hr, advance, hm]

/-- GETC's cycle away from the status cell: the fetch polls nothing, so the first byte is GETC's (20_memory.md R43;
45_trap.md R131). -/
theorem exists_step_eq_next_of_trapGetc (hr : s.run = .running) (hm : s.hostMoves = [])
    (hpc : s.pc ≠ s.params.kbsrAddr) (hi : decode (s.mem.read s.pc) = .trapGetc) (hin : s.input = b :: bs) :
    ∃ t, step s = .next t ∧ Inputs (seen s) t b [] ∧ t.input = bs := by
  obtain ⟨hnext, -, hplain⟩ :=
    stepRunsTheDecodedInstruction s s (fetched s) hr (decode_wf _) (.inl ⟨hm, rfl⟩) rfl
  obtain ⟨hfetched, hseen⟩ := hplain hpc
  have hinput : (seen s).input = b :: bs := by rw [hseen, hin]
  obtain ⟨t, hexec, hinputs⟩ := getcReadsOneByte (seen s) b bs hinput
  exact ⟨t, hnext t (by rwa [hfetched, hi]), hinputs, (List.cons.inj (hinputs.input.symm.trans hinput)).2⟩

/-! The obligations on the host's moves -/

/-- Settles O54: the request is a step of its own, which writes the run state alone. -/
theorem terminationRequestAborts : Obligations.TerminationRequestAborts := by
  intro s rest hr hm
  exact ⟨_, step_eq_abort hr hm, rfl, rfl, rfl, rfl, rfl, rfl, rfl, rfl, RunState.noConfusion⟩

/-- Settles O55: the supply is a step of its own, which writes the input alone; GETC's cycle after it finds the byte. -/
theorem suppliedByteLiftsTheHold : Obligations.SuppliedByteLiftsTheHold := by
  refine ⟨fun s b rest hr hm => ?_, fun s b hr hin hpc hi hm => ?_⟩
  · exact ⟨_, step_eq_supply hr hm, rfl, rfl, rfl, rfl, rfl, rfl, rfl, rfl, rfl, rfl, rfl, rfl⟩
  · have hsupplied : (({ s with hostMoves := [] } : State).supply b).input = [b] := by
      rw [State.supply_input, hin, List.nil_append]
    obtain ⟨u, hstep, hu, hrest⟩ :=
      exists_step_eq_next_of_trapGetc (s := ({ s with hostMoves := [] } : State).supply b) hr rfl hpc hi hsupplied
    exact ⟨_, u, step_eq_supply hr hm, hstep, hu.result, hrest, hu.frame.pc⟩

end Sys2Proof.Machine
end

section
/-! PROOF. The general TRAP term (45_trap.md section 1; log entry 12): the decoder gives the encoder's TRAP word the
instruction of its vector. -/

namespace Sys2Proof.Machine

/-- Settles O24: both sides are the run of the vector's instruction, for the six ill-formed terms too. -/
theorem trapRowRunsTheServiceOfItsVector : Obligations.TrapRowRunsTheServiceOfItsVector := by
  intro v s
  have hdecode : decode (encodeTrap v) = decodeTrap v := decode_of_and_eq_encodeTrap rfl
  rw [hdecode, exec_trap_eq_exec_decodeTrap]

end Sys2Proof.Machine
end

section
/-! PROOF. The image loader (70_reset_and_hazards.md R171): one memory write per word, each to a cell of its own. -/

namespace Sys2Proof.Machine

/-- The origin is not met again within 2 ^ 16 cells, although addresses wrap (00_scope.md R9). -/
theorem ne_add_ofNat_succ (origin : Word) {k : Nat} (hk : k + 1 < 65536) :
    origin ≠ origin + BitVec.ofNat 16 (k + 1) := by
  intro h
  have hval := congrArg BitVec.toNat (BitVec.self_eq_add_right.1 h)
  rw [BitVec.toNat_ofNat, Nat.mod_eq_of_lt hk] at hval
  exact Nat.succ_ne_zero k hval

@[simp] theorem State.loadImage_cons (s : State) (origin w : Word) (ws : List Word) :
    s.loadImage origin (w :: ws) = (s.memWrite origin w).loadImage (origin + 1#16) ws := rfl

/-- The loader writes the memory alone. -/
theorem State.loadImage_with_mem (s : State) (origin : Word) (ws : List Word) :
    { s.loadImage origin ws with mem := s.mem } = s := by
  induction ws generalizing s origin with
  | nil => rfl
  | cons w ws ih => exact congrArg ({ · with mem := s.mem }) (ih (s.memWrite origin w) (origin + 1#16))

/-- A cell outside the image keeps its word. -/
theorem State.read_loadImage_other (s : State) (origin : Word) (ws : List Word) {a : Word}
    (ha : ∀ k < ws.length, a ≠ origin + BitVec.ofNat 16 k) :
    (s.loadImage origin ws).mem.read a = s.mem.read a := by
  induction ws generalizing s origin with
  | nil => rfl
  | cons w ws ih =>
    have hhead : a ≠ origin := by simpa using ha 0 (Nat.succ_pos _)
    have htail : ∀ k < ws.length, a ≠ origin + 1#16 + BitVec.ofNat 16 k := fun k hk =>
      add_ofNat_succ origin k ▸ ha (k + 1) (Nat.succ_lt_succ hk)
    rw [loadImage_cons, ih _ _ htail, memWrite_mem, Memory.read_write_other _ hhead]

/-- Word k is in cell origin +16 k: the writes after it go to other cells, also where the addresses wrap
(00_scope.md R9). -/
theorem State.read_loadImage_word {s : State} (origin : Word) {ws : List Word} (hs : s.mem.wf = true)
    (hlen : ws.length ≤ 65536) {k : Nat} (hk : k < ws.length) :
    (s.loadImage origin ws).mem.read (origin + BitVec.ofNat 16 k) = ws[k] := by
  induction ws generalizing s origin k with
  | nil => cases hk
  | cons w ws ih =>
    cases k with
    | zero =>
      have hrest : ∀ j < ws.length, origin ≠ origin + 1#16 + BitVec.ofNat 16 j := fun j hj =>
        add_ofNat_succ origin j ▸ ne_add_ofNat_succ origin (Nat.lt_of_lt_of_le (Nat.succ_lt_succ hj) hlen)
      calc ((s.memWrite origin w).loadImage (origin + 1#16) ws).mem.read (origin + 0#16)
          = ((s.memWrite origin w).loadImage (origin + 1#16) ws).mem.read origin := by rw [BitVec.add_zero]
        _ = (s.mem.write origin w).read origin := read_loadImage_other _ _ _ hrest
        _ = w := Memory.read_write_same hs origin w
    | succ k =>
      rw [add_ofNat_succ]
      exact ih (origin + 1#16) (Memory.wf_write hs origin w) (Nat.le_of_succ_le hlen) (Nat.lt_of_succ_lt_succ hk)

/-- Settles O60: an image that fits has at most 2 ^ 16 words, so no write of the loader meets an earlier one. -/
theorem loadedImageIsInMemory : Obligations.LoadedImageIsInMemory := by
  intro s origin ws hs hfits
  have hlen : ws.length ≤ 65536 := Nat.le_of_add_left_le hfits
  exact ⟨fun k hk => State.read_loadImage_word origin hs hlen hk,
    fun a ha => State.read_loadImage_other s origin ws ha, State.loadImage_with_mem s origin ws⟩

end Sys2Proof.Machine
end
